-- ==== Sys2Proof/Word.lean ====
section
/-! DEFINITION. Widths of the words of WCS-RM (spec 00 R11). -/

namespace Sys2Proof

/-- A command word, CMD_W = 36 bits (30 R81). -/
abbrev CmdWord := BitVec 36

/-- A word at the register-space port, REG_W = 32 bits (10 R28). -/
abbrev RegWord := BitVec 32

/-- A PWM load or compare value, PWM_W = 16 bits (00 R11). -/
abbrev PwmWord := BitVec 16

/-- A serial byte, BYTE_W = 8 bits (00 R11). -/
abbrev Byte := BitVec 8

/-- A response status code, STATUS_W = 2 bits (30 R99). -/
abbrev StatusCode := BitVec 2

/-- A step number of the sequencer, 4 bits (10 R23). -/
abbrev StepNo := BitVec 4

end Sys2Proof
end

