-- ==== Sys2Proof/Config.lean ====
section
/-! DEFINITION. What an implementation fixes (the OPEN parameters of 00 R12, R13), the register identifiers that one of them maps,
and the one free value (43 R187). -/

namespace Sys2Proof

/-- The six ports (00 R10). -/
inductive Port where
  | a | b | c | d | e | f
  deriving DecidableEq, Repr

/-- All ports, in the order of their codes (30 R88). -/
def Port.all : List Port := [.a, .b, .c, .d, .e, .f]

/-- One thing per port, as plain data. -/
structure PortTable (α : Type) where
  a : α
  b : α
  c : α
  d : α
  e : α
  f : α
  deriving DecidableEq, Repr

def PortTable.get {α : Type} (t : PortTable α) : Port → α
  | .a => t.a
  | .b => t.b
  | .c => t.c
  | .d => t.d
  | .e => t.e
  | .f => t.f

def PortTable.set {α : Type} (t : PortTable α) (p : Port) (x : α) : PortTable α :=
  match p with
  | .a => { t with a := x }
  | .b => { t with b := x }
  | .c => { t with c := x }
  | .d => { t with d := x }
  | .e => { t with e := x }
  | .f => { t with f := x }

/-- The same value for every port. -/
def PortTable.const {α : Type} (x : α) : PortTable α := ⟨x, x, x, x, x, x⟩

/-! ### Register identifiers -/

/-- The registers of a port's bank by name (10 R30). -/
inductive Machine.BankReg where
  | dir | pur | pdr | den | is | ibe | iev | pend | icr | im
  deriving DecidableEq, Repr

/-- A symbolic register identifier, the only kind of address SEQ knows (20 R61). -/
inductive Machine.RegId where
  | sysClkgate
  | gpio (p : Port) (k : Machine.BankReg)
  | icEn (l : Nat)
  | icPri (l : Nat)
  | actDrv
  | pwmCtl
  | pwmLoad
  | pwmCmp
  | uartFlags
  | uartData
  deriving DecidableEq, Repr

/-- The registers of a bank. -/
def bankRegs : List Machine.BankReg := [.dir, .pur, .pdr, .den, .is, .ibe, .iev, .pend, .icr, .im]

/-- The identifiers that exist with `n` interrupt lines, in the order of 20 R61. -/
def registerIds (n : Nat) : List Machine.RegId :=
  [.sysClkgate] ++ Port.all.flatMap (fun p => bankRegs.map (.gpio p)) ++ (List.range n).map .icEn ++
    (List.range n).map .icPri ++ [.actDrv, .pwmCtl, .pwmLoad, .pwmCmp, .uartFlags, .uartData]

/-! ### The OPEN parameters -/

/-- The OPEN parameters CLK_BIT, IRQ_LINE, NLINES (00 R12) and ADDR (00 R13), as plain data: the model takes them as an
argument, which is the field `board` of State. -/
structure Board where
  clk    : PortTable (Fin 32)
  irq    : PortTable Nat
  nlines : Nat
  /-- ADDR, as (identifier, bus address) pairs. No rule reads it (00 R13). Log entry 21. -/
  addr   : List (Machine.RegId × Nat)
  deriving DecidableEq, Repr

/-- CLK_BIT(p): the bit of SYS.CLKGATE that belongs to port p (00 R12). -/
def Board.clkBit (b : Board) (p : Port) : Nat := (b.clk.get p).val

/-- IRQ_LINE(p): the interrupt line of port p (00 R12). -/
def Board.irqLine (b : Board) (p : Port) : Nat := b.irq.get p

/-- ADDR(r): the bus address of a register, none for an identifier that does not exist (00 R13). -/
def Board.address (b : Board) (r : Machine.RegId) : Option Nat := (b.addr.find? (fun x => x.1 == r)).map (fun x => x.2)

/-- The constraints of 00 R12 and R13 on the parameters: both tables are one-to-one, every line exists, NLINES is at least 6;
ADDR gives each identifier that exists one address, and no two the same. -/
abbrev Board.WF (b : Board) : Prop :=
  (∀ p ∈ Port.all, ∀ q ∈ Port.all, b.clkBit p = b.clkBit q → p = q) ∧
  (∀ p ∈ Port.all, ∀ q ∈ Port.all, b.irqLine p = b.irqLine q → p = q) ∧
  (∀ p ∈ Port.all, b.irqLine p < b.nlines) ∧
  6 ≤ b.nlines ∧
  b.addr.map (fun x => x.1) = registerIds b.nlines ∧
  (b.addr.map (fun x => x.2)).Nodup

/-- CFG_REF, the spec's own reference configuration (00 R14). It binds no implementation (log entry 3). It gives no ADDR: here
each register's address is its place in the list of 20 R61. DESIGN CHOICE, log entry 21. -/
def Board.reference : Board :=
  { clk := ⟨0, 1, 2, 3, 4, 5⟩, irq := ⟨0, 1, 2, 3, 4, 30⟩, nlines := 32, addr := (registerIds 32).zipIdx }

/-- FREE VALUE (43 R187, log entry 6): whether PLAT leaves TXRDY at 1 (true) or clears it (false) in the step in which a byte
is written to UART.DATA. "As PLAT chooses": nothing is known of it. The argument is the counter `draws` of State. -/
opaque Config.txStaysReady : Nat → Bool

end Sys2Proof
end

