-- ==== Sys2Proof/Syntax.lean ====
section
/-! DEFINITION. The nine commands of spec/opcode_table.json, one constructor a row (30 R93). -/

namespace Sys2Proof

/-- The operand `dir` (30 R91). -/
inductive Direction where
  | input | output
  deriving DecidableEq, Repr

/-- The operand `edge` (30 R91). -/
inductive EdgeMode where
  | single | both
  deriving DecidableEq, Repr

/-- A command with its operands as the word carries them (30 R82 to R87). `port`, `pin`, `prio` and `res` are raw fields,
wider than their valid ranges: a legal word may carry an invalid value, which step S0 rejects (30 R96). -/
inductive Instr where
  | configurePin (port : BitVec 4) (pin : BitVec 8) (dir : Direction) (res : BitVec 2)
  | attachInterrupt (port : BitVec 4) (pin : BitVec 8) (prio : BitVec 8) (edge : EdgeMode)
  | actForward
  | actReverse
  | actStop
  | initPwm (load : PwmWord) (cmp : PwmWord)
  | setDuty (cmp : PwmWord)
  | transmitByte (byte : Byte)
  | receiveByte
  deriving DecidableEq, Repr

end Sys2Proof
end

