-- ==== Sys2Proof/Decode.lean ====
section
/-! DEFINITION. Decoding of command words (30 R96) and the encoder (30 R82 to R87, R103). -/

namespace Sys2Proof

/-- Why a word is not a command (30 R94, R95). Both end as IllegalCommand (60 R196). -/
inductive DecodeError where
  /-- The opcode is one of 0x0, 0x3, 0x7, 0xA, 0xB, 0xE, 0xF (30 R94). -/
  | reservedOpcode (op : BitVec 4)
  /-- A `zero` field of the opcode's format is not 0 (30 R95). -/
  | reservedBitsSet (op : BitVec 4)
  deriving DecidableEq, Repr

/-- The outcome of decoding: total on every 36-bit word (30 R96). -/
inductive Decoded where
  | command (i : Instr)
  | illegal (e : DecodeError)
  deriving DecidableEq, Repr

/-- The slice of `width` bits of a word from bit `lo` up (00 R15). -/
def field (w : CmdWord) (lo width : Nat) : BitVec width := w.extractLsb' lo width

/-- `cmd[35:32]` (30 R81). -/
def opcodeOf (w : CmdWord) : BitVec 4 := field w 32 4

/-- Codes of `dir` (30 R91). -/
def Direction.ofBit (b : BitVec 1) : Direction := if b = 1 then .output else .input

def Direction.toBit : Direction → BitVec 1
  | .input => 0
  | .output => 1

/-- Codes of `edge` (30 R91). -/
def EdgeMode.ofBit (b : BitVec 1) : EdgeMode := if b = 1 then .both else .single

def EdgeMode.toBit : EdgeMode → BitVec 1
  | .single => 0
  | .both => 1

/-- A command whose `zero` field must be 0 (30 R95). -/
def requireZero {n : Nat} (w : CmdWord) (zero : BitVec n) (i : Instr) : Decoded :=
  if zero = 0 then .command i else .illegal (.reservedBitsSet (opcodeOf w))

/-- The decoder, case by case as 30 R96 writes it. -/
def decode (w : CmdWord) : Decoded :=
  match (opcodeOf w).toNat with
  | 0x1 => requireZero w (field w 3 17)
      (.configurePin (field w 28 4) (field w 20 8) (Direction.ofBit (field w 2 1)) (field w 0 2))
  | 0x2 => requireZero w (field w 1 11)
      (.attachInterrupt (field w 28 4) (field w 20 8) (field w 12 8) (EdgeMode.ofBit (field w 0 1)))
  | 0x4 => requireZero w (field w 0 32) .actForward
  | 0x5 => requireZero w (field w 0 32) .actReverse
  | 0x6 => requireZero w (field w 0 32) .actStop
  | 0x8 => .command (.initPwm (field w 16 16) (field w 0 16))
  | 0x9 => requireZero w (field w 16 16) (.setDuty (field w 0 16))
  | 0xC => requireZero w (field w 8 24) (.transmitByte (field w 0 8))
  | 0xD => requireZero w (field w 0 32) .receiveByte
  | _ => .illegal (.reservedOpcode (opcodeOf w))

/-- The encoder: the fields of each format from left to right (30 R82 to R87). -/
def encode : Instr → CmdWord
  | .configurePin port pin dir res => 0x1#4 ++ port ++ pin ++ 0#17 ++ dir.toBit ++ res
  | .attachInterrupt port pin prio edge => 0x2#4 ++ port ++ pin ++ prio ++ 0#11 ++ edge.toBit
  | .actForward => 0x4#4 ++ 0#32
  | .actReverse => 0x5#4 ++ 0#32
  | .actStop => 0x6#4 ++ 0#32
  | .initPwm load cmp => 0x8#4 ++ load ++ cmp
  | .setDuty cmp => 0x9#4 ++ 0#16 ++ cmp
  | .transmitByte byte => 0xC#4 ++ 0#24 ++ byte
  | .receiveByte => 0xD#4 ++ 0#32

/-- The command the decoder reads from the bits `w` of an opcode-table row of `nbits` bits; none where the word is illegal or
has a bit above bit 35, which no command word has (log entry 25). -/
def decodeTableWord (nbits w : Nat) : Option Instr :=
  if w < 2 ^ min nbits 36 then
    match decode (BitVec.ofNat 36 w) with
    | .command i => some i
    | .illegal _ => none
  else none

end Sys2Proof
end

