-- ==== Sys2Proof/Machine/State.lean ====
section
/-! DEFINITION. The state of WCS-RM and of the register space it reaches (spec 10), the moves of the agents (00 R8), the
reasons a step stops, and the state after reset. Plain data throughout. -/

namespace Sys2Proof.Machine

/-! ### The register space -/

/-- One bank GPIO[p]: the nine registers that hold state (10 R32 to R41; ICR holds none, 10 R40). -/
structure Bank where
  dir  : RegWord
  pur  : RegWord
  pdr  : RegWord
  den  : RegWord
  is   : RegWord
  ibe  : RegWord
  iev  : RegWord
  pend : RegWord
  im   : RegWord
  deriving DecidableEq, Repr

/-- The registers of one kind of the interrupt controller, by line (10 R42, R43): (line, word) pairs in canonical form, lines
strictly rising, no entry equal to 0, which a line not listed reads as (log entry 11). -/
abbrev LineFile := List (Nat × RegWord)

/-- The canonical form of a line file. -/
abbrev LineFile.wf (f : LineFile) : Prop :=
  f.Pairwise (fun x y => x.1 < y.1) ∧ ∀ c ∈ f, c.2 ≠ 0

/-- Every listed line is one of 0..NLINES-1 (10 R42). -/
abbrev LineFile.below (n : Nat) (f : LineFile) : Prop := ∀ c ∈ f, c.1 < n

/-- The register space (10 R27) with the hidden state of PLAT (10 R57). -/
structure RegSpace where
  /-- SYS.CLKGATE (10 R29). -/
  clkgate   : RegWord
  /-- GPIO[p] (10 R30). -/
  banks     : PortTable Bank
  /-- IC.EN[l] (10 R42). -/
  icEn      : LineFile
  /-- IC.PRI[l] (10 R43). -/
  icPri     : LineFile
  /-- ACT.DRV: bit 0 FWD, bit 1 REV (10 R44). -/
  actDrv    : RegWord
  /-- PWM.CTL: bit 0 EN, bit 1 MODE (10 R46). -/
  pwmCtl    : RegWord
  /-- PWM.LOAD (10 R47). -/
  pwmLoad   : RegWord
  /-- PWM.CMP (10 R48). -/
  pwmCmp    : RegWord
  /-- PWM.CMP_ACT, hidden (10 R49). -/
  pwmCmpAct : PwmWord
  /-- PWM.COUNT, hidden (10 R49). -/
  pwmCount  : PwmWord
  /-- UART.FLAGS.TXRDY (10 R51). RXAVL is computed from `rxq` (43 R188). -/
  txRdy     : Bool
  /-- Bits 31:2 of UART.FLAGS, PLAT's (10 R28). -/
  flagsHi   : BitVec 30
  /-- Bits 31:8 of UART.DATA as a read returns them, PLAT's (43 R189). -/
  dataHi    : BitVec 24
  /-- UART.RXQ, oldest byte first (10 R53). -/
  rxq       : List Byte
  /-- UART.TXLOG, oldest byte first (10 R53). -/
  txLog     : List Byte
  deriving DecidableEq, Repr

/-! ### The ports -/

/-- The response port in one step (30 R98). -/
structure Response where
  status : StatusCode
  data   : Byte
  deriving DecidableEq, Repr

/-- The register-space port in one step (20 R62): no request; a read, with the data once acknowledged; a masked write, with
the acknowledge. `reg_req` is 1 in the last two, `reg_we` is 1 in the third. -/
inductive RegPort where
  | idle
  | reading (sel : RegId) (rdata : Option RegWord)
  | writing (sel : RegId) (wmask wdata : RegWord) (ack : Bool)
  deriving DecidableEq, Repr

/-! ### The agents' moves -/

/-- One move of one agent (00 R8). The values a move carries are the draws of the spec's "any value" (93): a statement about
every state is a statement about every value. Log entries 2, 12, 14 to 20. -/
inductive Move where
  /-- SEQ takes its step, or accepts a presented command (30 R104). -/
  | seq
  /-- PLAT has not acknowledged SEQ's transaction yet (20 R79). -/
  | hold
  /-- REQ presents a command word (30 R80). -/
  | present (w : CmdWord)
  /-- PLAT records an interrupt request of a pin (60 R204). -/
  | pinEvent (p : Port) (i : Fin 8)
  /-- PLAT changes the polarity bit of a pin (10 R38). -/
  | polarity (p : Port) (i : Fin 8) (v : Bool)
  /-- PLAT reloads the PWM counter (42 R167). -/
  | reload
  /-- The PWM counter counts down by one (42 R165). -/
  | countDown
  /-- The transmitter has room (43 R186). -/
  | txFree
  /-- A byte arrives from the peer (43 R188). -/
  | rxByte (b : Byte)
  /-- PLAT changes the bits of a register outside its field (10 R28). -/
  | outsideField (r : RegId) (v : RegWord)
  /-- Another agent writes a register (00 R9). `lost` is what the bank of a port holds if the write turns its clock off
  (93 U17). -/
  | otherWrite (r : RegId) (m v : RegWord) (lost : PortTable Bank)
  /-- Another agent reads a register (93 U12). -/
  | otherRead (r : RegId)
  /-- Reset of WCS-RM alone (70 R221). `landed`: the transaction it drops took effect (70 R222). `cmd`, `tmp`: what CMD and
  TMP hold afterwards, any value (10 R58). -/
  | reset (landed : Bool) (cmd : CmdWord) (tmp : PwmWord)
  /-- Reset of the platform and of WCS-RM (70 R224). `contents`: the register space afterwards, any value but the drive lines
  and TXLOG (10 R59). -/
  | platformReset (contents : RegSpace) (cmd : CmdWord) (tmp : PwmWord)
  deriving DecidableEq, Repr

/-! ### The state -/

structure State where
  /-- BUSY (10 R21). -/
  busy    : Bool
  /-- CMD (10 R22). -/
  cmd     : CmdWord
  /-- STEP (10 R23). -/
  stepNo  : StepNo
  /-- TMP (10 R25). Between commands it keeps its last value. Log entry 32. -/
  tmp     : PwmWord
  /-- The command port: the word REQ presents, none while cmd_valid = 0 (30 R80). -/
  cmdPort : Option CmdWord
  /-- The response port in the step just taken, none while rsp_valid = 0 (30 R98). -/
  rsp     : Option Response
  /-- The register-space port (20 R62): what the step just taken showed there. A request that is not acknowledged stays (log
  entry 8). -/
  regPort : RegPort
  /-- The register space (10 R27). -/
  regs    : RegSpace
  /-- The OPEN parameters (00 R12, R13); never changed. Log entry 3. -/
  board   : Board
  /-- MODEL's own: how many draws of Config.txStaysReady have been made. Log entry 6. -/
  draws   : Nat
  /-- MODEL's own: the agents' next moves, first one first; when empty SEQ moves. Log entry 2. -/
  moves   : List Move
  deriving DecidableEq, Repr

/-! ### The reasons a step stops -/

/-- A step stops with a fault. -/
inductive Fault where
  /-- An access, by SEQ or another agent, to a register of GPIO[p] while the clock of port p is off (60 R218, 93 U5). Raised
  by `accessFault`. Safe: the spec itself takes it as a fault. -/
  | unclockedAccess (p : Port)
  /-- STEP names no step of the command in CMD, or a later step finds operands S0 would have rejected (10 R23). Raised by the
  meanings; no run from reset reaches it. Safe: stuck. -/
  | noSuchStep
  /-- A line of the interrupt controller that is not in 0..NLINES-1 (20 R61). Raised by `accessFault`; SEQ raises it only on a
  board against 00 R12. Safe. -/
  | noSuchRegister (l : Nat)
  deriving DecidableEq, Repr

/-- A step is refused. -/
inductive Refusal where
  /-- The instruction has no meaning yet. Raised by a refused arm of `exec`; there is none. Safe. -/
  | notModelled (mnemonic : String)
  /-- Another agent writes the register space, or takes a byte from it, while a command is in progress (00 R9, 60 R219,
  70 R236, 93 U1). Raised by the moves otherWrite and otherRead. Safe. -/
  | secondWriter
  /-- UART.DATA written while TXRDY = 0 (43 R187, 93 U12). Raised by `storeReg`. Safe: SEQ never does it. -/
  | dataWriteNotReady
  /-- UART.DATA read while RXQ is empty (43 R189, 93 U12). Raised by `loadReg`. Safe: SEQ never does it. -/
  | dataReadEmpty
  /-- Another agent's access that the spec gives no effect: a write of UART.FLAGS or PEND, a read of ICR (10 R39, R40, R51).
  Raised by `storeReg` and `loadReg`. Safe: SEQ never does it. -/
  | unspecifiedAccess (r : RegId)
  /-- REQ changes the word it presents before it is accepted (30 R80: it must hold it stable). Raised by the move present.
  Safe. -/
  | commandWordChanged
  deriving DecidableEq, Repr

/-- The outcome of a step or of an operation on some part of the state. -/
abbrev Outcome (α : Type) := Host.Outcome α Fault Refusal

/-! ### Reset -/

/-- A bank with every register 0. DESIGN CHOICE, log entry 5. -/
def Bank.zero : Bank := ⟨0, 0, 0, 0, 0, 0, 0, 0, 0⟩

/-- The register space after a reset of the platform: the drive lines deasserted (10 R59), TXLOG empty; every other value is
a DESIGN CHOICE, log entry 5. -/
def RegSpace.reset : RegSpace :=
  { clkgate := 0, banks := PortTable.const Bank.zero, icEn := [], icPri := [], actDrv := 0, pwmCtl := 0, pwmLoad := 0,
    pwmCmp := 0, pwmCmpAct := 0, pwmCount := 0, txRdy := false, flagsHi := 0, dataHi := 0, rxq := [], txLog := [] }

/-- The machine right after reset on a given board (10 R58, 70 R221): idle, no response, no transaction. CMD and TMP are a
DESIGN CHOICE, log entry 4. -/
def State.resetOn (b : Board) : State :=
  { busy := false, cmd := 0, stepNo := 0, tmp := 0, cmdPort := none, rsp := none, regPort := .idle, regs := RegSpace.reset,
    board := b, draws := 0, moves := [] }

/-- The machine right after reset, on the reference board (log entry 3). -/
def State.reset : State := State.resetOn Board.reference

end Sys2Proof.Machine
end

