-- ==== Sys2Proof/Machine/Flags.lean ====
section
/-! DEFINITION. The one-bit conditions (10 R26): the serial ready flags, the pending flags, the clock and drive-line bits, and
what is computed from them. WCS-RM has no arithmetic flags. -/

namespace Sys2Proof.Machine

/-- `merge old m v`: each bit with mask 1 takes the data bit, every other bit keeps its value (20 R64). -/
def merge (old m v : RegWord) : RegWord := (old &&& ~~~m) ||| (v &&& m)

/-- `1 << i` (00 R15). -/
def oneHot (i : Nat) : RegWord := 1#32 <<< i

/-- A one-bit value at position `i`: `v << i` (00 R16). -/
def bitAt (v : Bool) (i : Nat) : RegWord := if v then oneHot i else 0

/-- PEND after a masked write to ICR: ones written clear flags (10 R40, 20 R64). -/
def clearPending (pend m v : RegWord) : RegWord := pend &&& ~~~(v &&& m)

/-- PEND after a pin event (60 R204). -/
def setPending (pend : RegWord) (i : Nat) : RegWord := pend ||| oneHot i

/-- RXAVL: 1 exactly when RXQ is not empty (43 R188). -/
def rxAvl (g : RegSpace) : Bool := !g.rxq.isEmpty

/-- The content of UART.FLAGS: TXRDY in bit 0, RXAVL in bit 1, PLAT's bits above (10 R51). -/
def flagsWord (g : RegSpace) : RegWord := g.flagsHi ++ BitVec.ofBool (rxAvl g) ++ BitVec.ofBool g.txRdy

/-- TXRDY in a word read from UART.FLAGS (43 R175). -/
def txRdyOf (w : RegWord) : Bool := w.getLsbD 0

/-- RXAVL in a word read from UART.FLAGS (43 R181). -/
def rxAvlOf (w : RegWord) : Bool := w.getLsbD 1

/-- PWM.CTL.EN (10 R46). -/
def pwmEnabled (ctl : RegWord) : Bool := ctl.getLsbD 0

/-- PWM.CTL.MODE, 0 = count down (10 R46). -/
def pwmMode (ctl : RegWord) : Bool := ctl.getLsbD 1

/-- Bits 15:0 of a PWM register (10 R47, R48). -/
def pwmField (w : RegWord) : PwmWord := w.extractLsb' 0 16

/-- Bits 7:0 of a word at UART.DATA (10 R52). -/
def byteField (w : RegWord) : Byte := w.extractLsb' 0 8

/-- The clock of port `p` runs (10 R29, 60 R217). -/
def clockOn (b : Board) (g : RegSpace) (p : Port) : Bool := g.clkgate.getLsbD (b.clkBit p)

/-- The two drive lines: REV in bit 1, FWD in bit 0 (10 R44). -/
def driveLines (g : RegSpace) : BitVec 2 := g.actDrv.extractLsb' 0 2

/-- The actuator states of the document (00 R10), with the forbidden one (10 R45). -/
inductive Actuator where
  | stopped | forward | reverse | forbidden
  deriving DecidableEq, Repr

/-- The actuator state, a function of ACT.DRV (10 R45). -/
def actuator (g : RegSpace) : Actuator :=
  match (driveLines g).toNat with
  | 0 => .stopped
  | 1 => .forward
  | 2 => .reverse
  | _ => .forbidden

end Sys2Proof.Machine
end

