-- ==== Sys2Proof/Machine/Operands.lean ====
section
/-! DEFINITION. Operand forms: the port lookup, the pin index, the resistor and priority checks, and the bound on compare
values (30 R88 to R92). -/

namespace Sys2Proof.Machine

/-- PORTSEL, the port lookup: the port with a code, none for the codes 6 to 15 (40 R105). Its bank, clock bit and line follow
from the port (`RegId.gpio`, `Board.clkBit`, `Board.irqLine`). -/
def portSel (c : BitVec 4) : Option Port :=
  match c.toNat with
  | 0 => some .a
  | 1 => some .b
  | 2 => some .c
  | 3 => some .d
  | 4 => some .e
  | 5 => some .f
  | _ => none

/-- The pin with an index, none for 8 to 255 (40 R108). -/
def pinSel (n : BitVec 8) : Option (Fin 8) :=
  if h : n.toNat < 8 then some ⟨n.toNat, h⟩ else none

/-- `prio` is one of 0..7 (41 R126). -/
def validPrio (n : BitVec 8) : Bool := decide (n.toNat ≤ 7)

/-- The document's resistor modes (00 R10). -/
inductive Resistor where
  | none | pullUp | pullDown
  deriving DecidableEq, Repr

/-- The resistor mode with a code, none for code 3 (30 R91). -/
def resSel (r : BitVec 2) : Option Resistor :=
  match r.toNat with
  | 0 => some .none
  | 1 => some .pullUp
  | 2 => some .pullDown
  | _ => Option.none

/-- The operands of CONFIGURE_PIN once S0 has checked them (40 R110); none if any is out of range. -/
def configureOperands (port : BitVec 4) (pin : BitVec 8) (res : BitVec 2) : Option (Port × Fin 8 × Resistor) :=
  match portSel port, pinSel pin, resSel res with
  | some p, some i, some r => some (p, i, r)
  | _, _, _ => Option.none

/-- The operands of ATTACH_INTERRUPT once S0 has checked them (41 R126); none if any is out of range. -/
def attachOperands (port : BitVec 4) (pin : BitVec 8) (prio : BitVec 8) : Option (Port × Fin 8) :=
  match portSel port, pinSel pin, validPrio prio with
  | some p, some i, true => some (p, i)
  | _, _, _ => Option.none

/-- The value the direction bit takes: Output 1, Input 0 (30 R91). -/
def dirValue (d : Direction) : Bool :=
  match d with
  | .input => false
  | .output => true

/-- The value the both-edges bit takes: BothEdges 1, SingleEdge 0 (30 R91). -/
def edgeValue (e : EdgeMode) : Bool :=
  match e with
  | .single => false
  | .both => true

/-- `min(cmp, load)` on unsigned values: the bound of INIT_PWM and SET_DUTY (42 R153, R160). -/
def boundedCompare (cmp load : PwmWord) : PwmWord := if cmp ≤ load then cmp else load

end Sys2Proof.Machine
end

