-- ==== Sys2Proof/Machine/Ops.lean ====
section
/-! DEFINITION. The named operations: reading and writing registers, the transactions at the register-space port (spec 20),
the control of the sequencer, responses and rejections (60 R195, R196). -/

namespace Sys2Proof.Machine

/-- Go on with the value of an outcome, or stop as it stops. -/
def bindNext {α β : Type} (o : Outcome α) (k : α → Outcome β) : Outcome β :=
  match o with
  | .next a => k a
  | .fault f => .fault f
  | .refused r => .refused r

/-! ### Interrupt-controller registers by line -/

/-- The word of line `l`; 0 if not listed. -/
def lineRead (f : LineFile) (l : Nat) : RegWord :=
  match f with
  | [] => 0
  | c :: rest => if c.1 = l then c.2 else lineRead rest l

/-- Put the word `v` at line `l`, keeping the canonical form. -/
def lineWrite (f : LineFile) (l : Nat) (v : RegWord) : LineFile :=
  match f with
  | [] => if v = 0 then [] else [(l, v)]
  | c :: rest =>
    if l < c.1 then (if v = 0 then c :: rest else (l, v) :: c :: rest)
    else if l = c.1 then (if v = 0 then rest else (l, v) :: rest)
    else c :: lineWrite rest l v

/-- A line file in canonical form, over the lines below `n`, from any list of pairs. -/
def lineCanonical (n : Nat) (f : LineFile) : LineFile :=
  match f with
  | [] => []
  | c :: rest => if c.1 < n then lineWrite (lineCanonical n rest) c.1 c.2 else lineCanonical n rest

/-! ### Bank registers -/

/-- The content of a bank register; none for ICR, which holds no state (10 R40). -/
def bankRead (b : Bank) : BankReg → Option RegWord
  | .dir => some b.dir
  | .pur => some b.pur
  | .pdr => some b.pdr
  | .den => some b.den
  | .is => some b.is
  | .ibe => some b.ibe
  | .iev => some b.iev
  | .pend => some b.pend
  | .icr => none
  | .im => some b.im

/-- A masked write to a bank register (20 R64; ICR: 10 R40); none for PEND, which is written only through ICR (10 R39). -/
def bankWrite (b : Bank) (k : BankReg) (m v : RegWord) : Option Bank :=
  match k with
  | .dir => some { b with dir := merge b.dir m v }
  | .pur => some { b with pur := merge b.pur m v }
  | .pdr => some { b with pdr := merge b.pdr m v }
  | .den => some { b with den := merge b.den m v }
  | .is => some { b with is := merge b.is m v }
  | .ibe => some { b with ibe := merge b.ibe m v }
  | .iev => some { b with iev := merge b.iev m v }
  | .pend => none
  | .icr => some { b with pend := clearPending b.pend m v }
  | .im => some { b with im := merge b.im m v }

/-- The register space with a new bank for port `p`. -/
def setBank (g : RegSpace) (p : Port) (b : Bank) : RegSpace := { g with banks := g.banks.set p b }

/-! ### The register space -/

/-- The reload of the PWM generator: CMP_ACT and COUNT in one step (42 R167). -/
def reloadPwm (g : RegSpace) : RegSpace :=
  { g with pwmCmpAct := pwmField g.pwmCmp, pwmCount := pwmField g.pwmLoad }

/-- A masked write to PWM.CTL: the change of EN from 0 to 1 includes a reload (42 R168). -/
def writePwmCtl (m v : RegWord) (g : RegSpace) : RegSpace :=
  let ctl := merge g.pwmCtl m v
  if !pwmEnabled g.pwmCtl && pwmEnabled ctl then reloadPwm { g with pwmCtl := ctl } else { g with pwmCtl := ctl }

/-- A write of a byte to UART.DATA while TXRDY = 1: it is appended to TXLOG, and TXRDY stays or falls as PLAT chooses
(43 R187). -/
def sendByte (stays : Bool) (b : Byte) (g : RegSpace) : RegSpace :=
  { g with txLog := g.txLog ++ [b], txRdy := stays }

/-- The effect of a masked write on the register space (20 R64, R68). `stays` is PLAT's choice of 43 R187. DESIGN CHOICE: a write
of UART.DATA appends bits 7:0 of the data whatever its mask (log entry 28). -/
def storeReg (stays : Bool) (r : RegId) (m v : RegWord) (g : RegSpace) : Outcome RegSpace :=
  match r with
  | .sysClkgate => .next { g with clkgate := merge g.clkgate m v }
  | .gpio p k =>
    match bankWrite (g.banks.get p) k m v with
    | some b => .next (setBank g p b)
    | none => .refused (.unspecifiedAccess r)
  | .icEn l => .next { g with icEn := lineWrite g.icEn l (merge (lineRead g.icEn l) m v) }
  | .icPri l => .next { g with icPri := lineWrite g.icPri l (merge (lineRead g.icPri l) m v) }
  | .actDrv => .next { g with actDrv := merge g.actDrv m v }
  | .pwmCtl => .next (writePwmCtl m v g)
  | .pwmLoad => .next { g with pwmLoad := merge g.pwmLoad m v }
  | .pwmCmp => .next { g with pwmCmp := merge g.pwmCmp m v }
  | .uartFlags => .refused (.unspecifiedAccess r)
  | .uartData => if g.txRdy then .next (sendByte stays (byteField v) g) else .refused .dataWriteNotReady

/-- A read: the word returned and the register space after it (20 R63). Only a read of UART.DATA changes anything: it removes
the oldest byte (20 R67, 43 R189). -/
def loadReg (r : RegId) (g : RegSpace) : Outcome (RegWord × RegSpace) :=
  match r with
  | .sysClkgate => .next (g.clkgate, g)
  | .gpio p k =>
    match bankRead (g.banks.get p) k with
    | some w => .next (w, g)
    | none => .refused (.unspecifiedAccess r)
  | .icEn l => .next (lineRead g.icEn l, g)
  | .icPri l => .next (lineRead g.icPri l, g)
  | .actDrv => .next (g.actDrv, g)
  | .pwmCtl => .next (g.pwmCtl, g)
  | .pwmLoad => .next (g.pwmLoad, g)
  | .pwmCmp => .next (g.pwmCmp, g)
  | .uartFlags => .next (flagsWord g, g)
  | .uartData =>
    match g.rxq with
    | b :: rest => .next (g.dataHi ++ b, { g with rxq := rest })
    | [] => .refused .dataReadEmpty

/-- Why an access to a register is a fault: the port's clock is off (60 R218), or the line does not exist (20 R61). -/
def accessFault (bd : Board) (g : RegSpace) (r : RegId) : Option Fault :=
  match r with
  | .gpio p _ => if clockOn bd g p then none else some (.unclockedAccess p)
  | .icEn l => if l < bd.nlines then none else some (.noSuchRegister l)
  | .icPri l => if l < bd.nlines then none else some (.noSuchRegister l)
  | _ => none

/-- The draws made after a write: one for a write to UART.DATA (log entry 6). -/
def drawsAfter (r : RegId) (n : Nat) : Nat :=
  match r with
  | .uartData => n + 1
  | _ => n

/-! ### Transactions -/

/-- The state after an acknowledged masked write that left the register space as `g`. -/
def State.wrote (s : State) (r : RegId) (m v : RegWord) (g : RegSpace) : State :=
  { s with regs := g, draws := drawsAfter r s.draws, regPort := .writing r m v true }

/-- The state after an acknowledged read that returned `w` and left the register space as `g`. -/
def State.didRead (s : State) (r : RegId) (w : RegWord) (g : RegSpace) : State :=
  { s with regs := g, regPort := .reading r (some w) }

/-- MemWriteMasked(r, 32, m, v): one atomic masked write, acknowledged (00 R16, 20 R64). -/
def memWriteMasked (r : RegId) (m v : RegWord) (s : State) : Outcome State :=
  match accessFault s.board s.regs r with
  | some f => .fault f
  | none =>
    bindNext (storeReg (Config.txStaysReady s.draws) r m v s.regs) fun g => .next (s.wrote r m v g)

/-- MemWrite(r, 32, v) (00 R16). -/
def memWrite (r : RegId) (v : RegWord) (s : State) : Outcome State := memWriteMasked r 0xFFFFFFFF v s

/-- SetBit(r, i) (00 R16). -/
def setBit (r : RegId) (i : Nat) (s : State) : Outcome State := memWriteMasked r (oneHot i) (oneHot i) s

/-- ClrBit(r, i) (00 R16). -/
def clrBit (r : RegId) (i : Nat) (s : State) : Outcome State := memWriteMasked r (oneHot i) 0 s

/-- A masked write of the one bit `i` with the value `v`: MemWriteMasked(r, 32, 1 << i, v << i) (40 R113, 41 R128). -/
def putBit (r : RegId) (i : Nat) (v : Bool) (s : State) : Outcome State := memWriteMasked r (oneHot i) (bitAt v i) s

/-- MemRead(r, 32): one read transaction, acknowledged, with the word it returns (00 R16, 20 R63). -/
def memRead (r : RegId) (s : State) : Outcome (RegWord × State) :=
  match accessFault s.board s.regs r with
  | some f => .fault f
  | none =>
    bindNext (loadReg r s.regs) fun x => .next (x.1, s.didRead r x.1 x.2)

/-! ### Control of the sequencer -/

/-- `pc <- k`: STEP takes the number of the next step (00 R16, 10 R23). -/
def State.goto (s : State) (k : StepNo) : State := { s with stepNo := k }

/-- `respond(s, d)`: the response and BUSY <- 0 in one step (30 R99). STEP is left without meaning and keeps its number (10 R23,
log entry 7). DESIGN CHOICE: TMP, meaningless outside SET_DUTY (10 R25, 93 U15), keeps the load value last read until the next
SET_DUTY or reset (log entry 32). -/
def State.respond (s : State) (status : StatusCode) (data : Byte) : State :=
  { s with busy := false, rsp := some ⟨status, data⟩ }

/-- TMP <- v (10 R25). -/
def State.withTmp (s : State) (v : PwmWord) : State := { s with tmp := v }

/-- The register space replaced. -/
def State.withRegs (s : State) (g : RegSpace) : State := { s with regs := g }

/-- Acceptance of a command word: CMD, STEP and BUSY in one step; the presented word is taken (30 R104). -/
def State.accept (s : State) (w : CmdWord) : State :=
  { s with cmd := w, stepNo := 0, busy := true, cmdPort := none }

/-- The agent whose move comes next: the head of the script, SEQ when the script is empty (log entry 2). -/
def nextMove (s : State) : Move :=
  match s.moves with
  | [] => .seq
  | m :: _ => m

/-- What the register-space port shows of a transaction that is requested and not acknowledged (20 R62). -/
def unacknowledged : RegPort → RegPort
  | .idle => .idle
  | .reading r _ => .reading r none
  | .writing r m v _ => .writing r m v false

/-- The request that still stands after a step: `reg_req` stays up until `reg_ack` (20 R62). -/
def waiting : RegPort → RegPort
  | .idle => .idle
  | .reading r none => .reading r none
  | .reading _ (some _) => .idle
  | .writing r m v false => .writing r m v false
  | .writing _ _ _ true => .idle

/-- `reg_sel`, while `reg_req` is 1 (20 R62). -/
def selected : RegPort → Option RegId
  | .idle => none
  | .reading r _ => some r
  | .writing r _ _ _ => some r

/-- The address a platform with numeric addresses drives, ADDR(reg_sel) (20 R62). -/
def busAddress (s : State) : Option Nat := (selected s.regPort).bind s.board.address

/-- The part of a step common to all agents: the next move is taken from the script, and the response and the acknowledge of the
step before are no longer shown. A request that waits for its acknowledge stays up while others move (20 R62); a move of SEQ
shows what it does there (log entry 8). -/
def State.openStep (s : State) : State :=
  { s with
    rsp := none, regPort := if nextMove s = .seq then .idle else waiting s.regPort, moves := s.moves.tail }

/-- Reset of WCS-RM: BUSY and STEP 0, CMD and TMP any value, no response, no request (70 R221). -/
def State.resetSeq (s : State) (cmd : CmdWord) (tmp : PwmWord) : State :=
  { s with busy := false, stepNo := 0, cmd := cmd, tmp := tmp, rsp := none, regPort := .idle }

/-- The status codes (30 R99, 60 R193). Code 3 is never given. -/
def statusOk : StatusCode := 0
def statusInvalidParameter : StatusCode := 1
def statusIllegalCommand : StatusCode := 2

/-- The two ways a command is turned away (60 R192). -/
inductive Rejection where
  | invalidParameter
  | illegalCommand
  deriving DecidableEq, Repr

def Rejection.status : Rejection → StatusCode
  | .invalidParameter => statusInvalidParameter
  | .illegalCommand => statusIllegalCommand

/-- `raise`: the command ends with the rejection's status and no register transaction (60 R195, R196). Nothing is saved and no
control is transferred (60 R200). The one shared operation for every rejection. -/
def raise (c : Rejection) (s : State) : Outcome State := .next (s.respond c.status 0)

/-- Step S0 of a command with operands to check: reject, or go on to S1 (40 R110, 41 R126). -/
def checkThenStart (ok : Bool) (s : State) : Outcome State :=
  if ok then .next (s.goto 1) else raise .invalidParameter s

/-- A step that makes one masked write and goes on. -/
def thenGoto (k : StepNo) (o : Outcome State) : Outcome State := bindNext o fun t => .next (t.goto k)

/-- A last step: one transaction, then `respond(0, 0)`. -/
def thenDone (o : Outcome State) : Outcome State := bindNext o fun t => .next (t.respond statusOk 0)

end Sys2Proof.Machine
end

