-- ==== Sys2Proof/Machine/Actuator.lean ====
section
/-! DEFINITION. The direction half of the actuator unit: ACT_FORWARD, ACT_REVERSE, ACT_STOP (42 R142 to R147). -/

namespace Sys2Proof.Machine

/-- The bits of ACT.DRV (10 R44). -/
def fwdLine : Nat := 0
def revLine : Nat := 1

/-- Break before make: S1 deasserts the line `off`, S2 asserts the line `on` and responds (42 R143, R144). -/
def driveStep (off on : Nat) (s : State) : Outcome State :=
  match s.stepNo.toNat with
  | 0 => .next (s.goto 1)
  | 1 => thenGoto 2 (clrBit .actDrv off s)
  | 2 => thenDone (setBit .actDrv on s)
  | _ => .fault .noSuchStep

/-- ACT_FORWARD (42 R143). -/
def execActForward (s : State) : Outcome State := driveStep revLine fwdLine s

/-- ACT_REVERSE (42 R144). -/
def execActReverse (s : State) : Outcome State := driveStep fwdLine revLine s

/-- ACT_STOP: one write clears both lines (42 R145). -/
def execActStop (s : State) : Outcome State :=
  match s.stepNo.toNat with
  | 0 => .next (s.goto 1)
  | 1 => thenDone (memWriteMasked .actDrv 0x3 0x0 s)
  | _ => .fault .noSuchStep

end Sys2Proof.Machine
end

