-- ==== Sys2Proof/Machine/InterruptAttach.lean ====
section
/-! DEFINITION. The interrupt attachment unit: ATTACH_INTERRUPT (spec 41). -/

namespace Sys2Proof.Machine

/-- The priority as the controller's register takes it: zext_32(prio[2:0]) (41 R131). -/
def prioWord (prio : BitVec 8) : RegWord := (prio.extractLsb' 0 3).setWidth 32

/-- The controller operation `set_priority(line, value)` (10 R43). -/
def setPriority (l : Nat) (prio : BitVec 8) (s : State) : Outcome State := memWriteMasked (.icPri l) 0x7 (prioWord prio) s

/-- The controller operation `enable(line)` (10 R42). -/
def enableLine (l : Nat) (s : State) : Outcome State := memWriteMasked (.icEn l) 0x1 0x1 s

/-- Steps S1 to S6 on checked operands (41 R127 to R132). -/
def attachStep (p : Port) (i : Fin 8) (prio : BitVec 8) (edge : EdgeMode) (s : State) : Outcome State :=
  match s.stepNo.toNat with
  | 1 => thenGoto 2 (clrBit (.gpio p .is) i.val s)
  | 2 => thenGoto 3 (putBit (.gpio p .ibe) i.val (edgeValue edge) s)
  | 3 => thenGoto 4 (setBit (.gpio p .icr) i.val s)
  | 4 => thenGoto 5 (setBit (.gpio p .im) i.val s)
  | 5 => thenGoto 6 (setPriority (s.board.irqLine p) prio s)
  | 6 => thenDone (enableLine (s.board.irqLine p) s)
  | _ => .fault .noSuchStep

/-- ATTACH_INTERRUPT: the step numbered by STEP (41 R133, R134). S0 checks the three operands (41 R126). -/
def execAttachInterrupt (port : BitVec 4) (pin : BitVec 8) (prio : BitVec 8) (edge : EdgeMode) (s : State) :
    Outcome State :=
  if s.stepNo = 0 then checkThenStart (attachOperands port pin prio).isSome s
  else
    match attachOperands port pin prio with
    | some (p, i) => attachStep p i prio edge s
    | none => .fault .noSuchStep

end Sys2Proof.Machine
end

