-- ==== Sys2Proof/Machine/PinConfig.lean ====
section
/-! DEFINITION. The pin configuration unit: CONFIGURE_PIN (spec 40). -/

namespace Sys2Proof.Machine

/-- The bank register that step S2 clears the pin's bit in: the opposite resistor (40 R112). -/
def oppositeReg : Resistor → Option BankReg
  | .none => none
  | .pullUp => some .pdr
  | .pullDown => some .pur

/-- The bank register that step S3 sets the pin's bit in: the requested resistor (40 R112). -/
def requestedReg : Resistor → Option BankReg
  | .none => none
  | .pullUp => some .pur
  | .pullDown => some .pdr

/-- The step after S1: S4 with no resistor, else S2 (40 R111). -/
def afterClock : Resistor → StepNo
  | .none => 4
  | .pullUp => 2
  | .pullDown => 2

/-- Steps S1 to S5 on checked operands (40 R111 to R115). -/
def configureStep (p : Port) (i : Fin 8) (dir : Direction) (res : Resistor) (s : State) : Outcome State :=
  match s.stepNo.toNat with
  | 1 => thenGoto (afterClock res) (setBit .sysClkgate (s.board.clkBit p) s)
  | 2 =>
    match oppositeReg res with
    | some k => thenGoto 3 (clrBit (.gpio p k) i.val s)
    | none => .fault .noSuchStep
  | 3 =>
    match requestedReg res with
    | some k => thenGoto 4 (setBit (.gpio p k) i.val s)
    | none => .fault .noSuchStep
  | 4 => thenGoto 5 (putBit (.gpio p .dir) i.val (dirValue dir) s)
  | 5 => thenDone (setBit (.gpio p .den) i.val s)
  | _ => .fault .noSuchStep

/-- CONFIGURE_PIN: the step numbered by STEP (40 R115, R116). S0 checks the three operands (40 R110). -/
def execConfigurePin (port : BitVec 4) (pin : BitVec 8) (dir : Direction) (res : BitVec 2) (s : State) : Outcome State :=
  if s.stepNo = 0 then checkThenStart (configureOperands port pin res).isSome s
  else
    match configureOperands port pin res with
    | some (p, i, r) => configureStep p i dir r s
    | none => .fault .noSuchStep

end Sys2Proof.Machine
end

