-- ==== Sys2Proof/Machine/Pwm.lean ====
section
/-! DEFINITION. The PWM half of the actuator unit: INIT_PWM, SET_DUTY (42 R152 to R171). -/

namespace Sys2Proof.Machine

/-- INIT_PWM: stop, load, compare (bounded), start (42 R155). -/
def execInitPwm (load cmp : PwmWord) (s : State) : Outcome State :=
  match s.stepNo.toNat with
  | 0 => .next (s.goto 1)
  | 1 => thenGoto 2 (memWriteMasked .pwmCtl 0x3 0x0 s)
  | 2 => thenGoto 3 (memWriteMasked .pwmLoad 0xFFFF (load.setWidth 32) s)
  | 3 => thenGoto 4 (memWriteMasked .pwmCmp 0xFFFF ((boundedCompare cmp load).setWidth 32) s)
  | 4 => thenDone (memWriteMasked .pwmCtl 0x3 0x1 s)
  | _ => .fault .noSuchStep

/-- SET_DUTY: read the load value into TMP, write the bounded compare value (42 R159). -/
def execSetDuty (cmp : PwmWord) (s : State) : Outcome State :=
  match s.stepNo.toNat with
  | 0 => .next (s.goto 1)
  | 1 => bindNext (memRead .pwmLoad s) fun x => .next ((x.2.withTmp (pwmField x.1)).goto 2)
  | 2 => thenDone (memWriteMasked .pwmCmp 0xFFFF ((boundedCompare cmp s.tmp).setWidth 32) s)
  | _ => .fault .noSuchStep

end Sys2Proof.Machine
end

