-- ==== Sys2Proof/Machine/Serial.lean ====
section
/-! DEFINITION. The serial unit: TRANSMIT_BYTE, RECEIVE_BYTE (spec 43). -/

namespace Sys2Proof.Machine

/-- The polling step S1: read UART.FLAGS once; go to S2 if the flag is 1, else stay at S1 (43 R174, R180, R185). -/
def pollFlag (flag : RegWord → Bool) (s : State) : Outcome State :=
  bindNext (memRead .uartFlags s) fun x => .next (x.2.goto (if flag x.1 then 2 else 1))

/-- TRANSMIT_BYTE (43 R175). -/
def execTransmitByte (byte : Byte) (s : State) : Outcome State :=
  match s.stepNo.toNat with
  | 0 => .next (s.goto 1)
  | 1 => pollFlag txRdyOf s
  | 2 => thenDone (memWriteMasked .uartData 0xFF (byte.setWidth 32) s)
  | _ => .fault .noSuchStep

/-- RECEIVE_BYTE: the response carries bits 7:0 of the word read (43 R181). -/
def execReceiveByte (s : State) : Outcome State :=
  match s.stepNo.toNat with
  | 0 => .next (s.goto 1)
  | 1 => pollFlag rxAvlOf s
  | 2 => bindNext (memRead .uartData s) fun x => .next (x.2.respond statusOk (byteField x.1))
  | _ => .fault .noSuchStep

end Sys2Proof.Machine
end

