-- ==== Sys2Proof/Machine/Dispatch.lean ====
section
/-! DEFINITION. One arm per command: exec performs the step numbered by STEP of the command (10 R23, log entry 1). -/

namespace Sys2Proof.Machine

def exec (i : Instr) (s : State) : Host.Outcome State Fault Refusal :=
  match i with
  | .configurePin port pin dir res => Sys2Proof.Machine.execConfigurePin port pin dir res s
  | .attachInterrupt port pin prio edge => Sys2Proof.Machine.execAttachInterrupt port pin prio edge s
  | .actForward => Sys2Proof.Machine.execActForward s
  | .actReverse => Sys2Proof.Machine.execActReverse s
  | .actStop => Sys2Proof.Machine.execActStop s
  | .initPwm load cmp => Sys2Proof.Machine.execInitPwm load cmp s
  | .setDuty cmp => Sys2Proof.Machine.execSetDuty cmp s
  | .transmitByte byte => Sys2Proof.Machine.execTransmitByte byte s
  | .receiveByte => Sys2Proof.Machine.execReceiveByte s

end Sys2Proof.Machine
end

