-- ==== Sys2Proof/Machine/Platform.lean ====
section
/-! DEFINITION. The steps of PLAT and of other agents (00 R8, R9). A step of PLAT whose precondition does not hold is not
taken: it changes nothing (log entry 19). -/

namespace Sys2Proof.Machine

/-- The union of the ports' clock bits: the fields of SYS.CLKGATE (10 R29). -/
def clockField (bd : Board) : RegWord := Port.all.foldr (fun p w => oneHot (bd.clkBit p) ||| w) 0

/-- The named fields of a register, as a mask (10 R28 to R52). -/
def fieldMask (bd : Board) : RegId → RegWord
  | .sysClkgate => clockField bd
  | .gpio _ _ => 0xFF
  | .icEn _ => 0x1
  | .icPri _ => 0x7
  | .actDrv => 0x3
  | .pwmCtl => 0x3
  | .pwmLoad => 0xFFFF
  | .pwmCmp => 0xFFFF
  | .uartFlags => 0x3
  | .uartData => 0xFF

/-- A bank whose register `k` has new bits outside the field; ICR holds nothing. -/
def bankOutside (b : Bank) (k : BankReg) (v : RegWord) : Bank :=
  match k with
  | .dir => { b with dir := merge b.dir (~~~0xFF) v }
  | .pur => { b with pur := merge b.pur (~~~0xFF) v }
  | .pdr => { b with pdr := merge b.pdr (~~~0xFF) v }
  | .den => { b with den := merge b.den (~~~0xFF) v }
  | .is => { b with is := merge b.is (~~~0xFF) v }
  | .ibe => { b with ibe := merge b.ibe (~~~0xFF) v }
  | .iev => { b with iev := merge b.iev (~~~0xFF) v }
  | .pend => { b with pend := merge b.pend (~~~0xFF) v }
  | .icr => b
  | .im => { b with im := merge b.im (~~~0xFF) v }

/-- PLAT gives the bits of a register outside its fields any value (10 R28, 93 U16, log entry 16). A line that does not exist
has no bits. -/
def changeOutside (bd : Board) (r : RegId) (v : RegWord) (g : RegSpace) : RegSpace :=
  let keep (w : RegWord) : RegWord := merge w (~~~(fieldMask bd r)) v
  match r with
  | .sysClkgate => { g with clkgate := keep g.clkgate }
  | .gpio p k => setBank g p (bankOutside (g.banks.get p) k v)
  | .icEn l => if l < bd.nlines then { g with icEn := lineWrite g.icEn l (keep (lineRead g.icEn l)) } else g
  | .icPri l => if l < bd.nlines then { g with icPri := lineWrite g.icPri l (keep (lineRead g.icPri l)) } else g
  | .actDrv => { g with actDrv := keep g.actDrv }
  | .pwmCtl => { g with pwmCtl := keep g.pwmCtl }
  | .pwmLoad => { g with pwmLoad := keep g.pwmLoad }
  | .pwmCmp => { g with pwmCmp := keep g.pwmCmp }
  | .uartFlags => { g with flagsHi := v.extractLsb' 2 30 }
  | .uartData => { g with dataHi := v.extractLsb' 8 24 }

/-- Pin event: PLAT sets a pending flag, at any time (60 R204). -/
def pinEvent (p : Port) (i : Fin 8) (g : RegSpace) : RegSpace :=
  let b := g.banks.get p
  setBank g p { b with pend := setPending b.pend i.val }

/-- PLAT changes a polarity bit, which SEQ never accesses (10 R38). -/
def setPolarity (p : Port) (i : Fin 8) (v : Bool) (g : RegSpace) : RegSpace :=
  let b := g.banks.get p
  setBank g p { b with iev := merge b.iev (oneHot i.val) (bitAt v i.val) }

/-- Reload step: only while EN = 1 (42 R167). -/
def reloadStep (g : RegSpace) : RegSpace := if pwmEnabled g.pwmCtl then reloadPwm g else g

/-- One count of the prescaled clock: only while EN = 1 and MODE = 0, and not past 0 (42 R165, log entry 17). -/
def countStep (g : RegSpace) : RegSpace :=
  if pwmEnabled g.pwmCtl && !pwmMode g.pwmCtl && g.pwmCount != 0 then { g with pwmCount := g.pwmCount - 1 } else g

/-- Transmitter free (43 R186). -/
def transmitterFree (g : RegSpace) : RegSpace := { g with txRdy := true }

/-- Byte received (43 R188). -/
def byteReceived (b : Byte) (g : RegSpace) : RegSpace := { g with rxq := g.rxq ++ [b] }

/-- The bank of port `p` after its clock may have gone off: any value if it has (93 U17), else as it is. -/
def loseBank (bd : Board) (before : RegSpace) (lost : PortTable Bank) (p : Port) (g : RegSpace) : RegSpace :=
  if clockOn bd before p && !clockOn bd g p then setBank g p (lost.get p) else g

/-- Every bank whose clock went off from `before` to `g`. -/
def loseBanks (bd : Board) (before : RegSpace) (lost : PortTable Bank) (g : RegSpace) : RegSpace :=
  Port.all.foldr (fun p h => loseBank bd before lost p h) g

/-- Another agent writes a register. While a command is in progress the run is refused (00 R9, 60 R219, 70 R236); else the
write has the effect a write has (20 R64, R68), the clock gate included. Log entry 12. -/
def otherWrite (r : RegId) (m v : RegWord) (lost : PortTable Bank) (s : State) : Outcome State :=
  if s.busy then .refused .secondWriter
  else
    match accessFault s.board s.regs r with
    | some f => .fault f
    | none =>
      bindNext (storeReg (Config.txStaysReady s.draws) r m v s.regs) fun g =>
        .next { s with regs := loseBanks s.board s.regs lost g, draws := drawsAfter r s.draws }

/-- Another agent reads a register: a read of UART.DATA takes a byte, and is refused while a command is in progress; the other
reads change nothing (20 R67). Log entry 12. -/
def otherRead (r : RegId) (s : State) : Outcome State :=
  if s.busy && r == .uartData then .refused .secondWriter
  else
    match accessFault s.board s.regs r with
    | some f => .fault f
    | none => bindNext (loadReg r s.regs) fun x => .next (s.withRegs x.2)

/-- REQ presents a command word, and holds it stable until it is accepted (30 R80). Log entry 24. -/
def present (w : CmdWord) (s : State) : Outcome State :=
  match s.cmdPort with
  | none => .next { s with cmdPort := some w }
  | some w' => if w = w' then .next s else .refused .commandWordChanged

/-- The register space after a reset of the platform: any value, but the drive lines deasserted and TXLOG empty (10 R59,
70 R225). The line files are put into canonical form. -/
def powerOn (bd : Board) (contents : RegSpace) : RegSpace :=
  { contents with
    icEn := lineCanonical bd.nlines contents.icEn
    icPri := lineCanonical bd.nlines contents.icPri
    actDrv := merge contents.actDrv 0x3 0x0
    txLog := [] }

end Sys2Proof.Machine
end

