-- ==== Sys2Proof/Machine/Sequencer.lean ====
section
/-! DEFINITION. What SEQ does when it moves (30 R104, 60 R196), resets (70 R221), and the moves of all agents. -/

namespace Sys2Proof.Machine

/-- The one step of a word that is no command: S0, `raise IllegalCommand` (30 R96, 60 R196). -/
def illegalStep (s : State) : Outcome State :=
  if s.stepNo = 0 then raise .illegalCommand s else .fault .noSuchStep

/-- SEQ moves: busy, it performs the next step of the command in CMD; idle, it accepts a presented command (30 R104), or does
nothing (60 R217). -/
def seqMove (s : State) : Outcome State :=
  if s.busy then
    match decode s.cmd with
    | .command i => exec i s
    | .illegal _ => illegalStep s
  else
    match s.cmdPort with
    | some w => .next (s.accept w)
    | none => .next s

/-- A register space in which every access SEQ makes is answered: all clocks on, TXRDY = 1, a byte waiting. -/
def answeringSpace : RegSpace := { RegSpace.reset with clkgate := 0xFFFFFFFF, txRdy := true, rxq := [0] }

/-- The request of SEQ's present step (20 R62): that of the same step where PLAT answers every access. What SEQ requests depends
on BUSY, CMD, STEP, TMP and the parameters alone, not on what the register space holds. -/
def request (s : State) : RegPort :=
  match seqMove { State.resetOn s.board with
      busy := s.busy, cmd := s.cmd, stepNo := s.stepNo, tmp := s.tmp, regs := answeringSpace } with
  | .next t => unacknowledged t.regPort
  | .fault _ => .idle
  | .refused _ => .idle

/-- PLAT has not acknowledged the transaction of SEQ's present step: SEQ stays in it, with the request up (20 R79, log entry 18).
DESIGN CHOICE: an access to a port whose clock is off is requested like any other, and is the fault of 60 R218 when PLAT would
acknowledge it, in SEQ's own move (log entry 33). -/
def held (s : State) : State := { s with regPort := request s }

/-- Reset of WCS-RM (70 R221). If a command is in progress and `landed`, the transaction of the step it is in has taken effect
on the register space, without the rest of the step (70 R222, 93 U14). Log entry 14. -/
def resetMove (landed : Bool) (cmd : CmdWord) (tmp : PwmWord) (s : State) : Outcome State :=
  if landed && s.busy then
    bindNext (seqMove s) fun t => .next ({ s with regs := t.regs, draws := t.draws }.resetSeq cmd tmp)
  else .next (s.resetSeq cmd tmp)

/-- Reset of the platform and of WCS-RM (70 R224, R225). Log entry 15. -/
def platformResetMove (contents : RegSpace) (cmd : CmdWord) (tmp : PwmWord) (s : State) : Outcome State :=
  .next ((s.withRegs (powerOn s.board contents)).resetSeq cmd tmp)

/-- The effect of one move. -/
def makeMove (m : Move) (s : State) : Outcome State :=
  match m with
  | .seq => seqMove s
  | .hold => .next (held s)
  | .present w => present w s
  | .pinEvent p i => .next (s.withRegs (pinEvent p i s.regs))
  | .polarity p i v => .next (s.withRegs (setPolarity p i v s.regs))
  | .reload => .next (s.withRegs (reloadStep s.regs))
  | .countDown => .next (s.withRegs (countStep s.regs))
  | .txFree => .next (s.withRegs (transmitterFree s.regs))
  | .rxByte b => .next (s.withRegs (byteReceived b s.regs))
  | .outsideField r v => .next (s.withRegs (changeOutside s.board r v s.regs))
  | .otherWrite r m v lost => otherWrite r m v lost s
  | .otherRead r => otherRead r s
  | .reset landed cmd tmp => resetMove landed cmd tmp s
  | .platformReset contents cmd tmp => platformResetMove contents cmd tmp s

/-- The word the bits `w` of an opcode-table row of `nbits` bits stand for: the bits above them are 0. -/
def tableWord (nbits w : Nat) : CmdWord := BitVec.ofNat 36 (w % 2 ^ nbits)

end Sys2Proof.Machine
end

