-- ==== Sys2Proof/Machine/Step.lean ====
section
/-! DEFINITION. One step of the machine: one move of one agent (00 R8, 20 R75). -/

namespace Sys2Proof.Machine

/-- One step: the next move is taken from the script and made. -/
def step (s : State) : Host.Outcome State Fault Refusal := makeMove (nextMove s) s.openStep

/-- The state right after the acceptance of the given word (30 R104), with SEQ to move next: the very next step performs S0 of
it (log entry 23). -/
def State.withFetchWord (s : State) (nbits w : Nat) : State :=
  { s with busy := true, stepNo := 0, cmd := tableWord nbits w, moves := .seq :: s.moves }

end Sys2Proof.Machine
end

