-- ==== Sys2Proof/Safety.lean ====
section
/-! DEFINITION. What a safe state is, and the terms claims use: the invariant of every run, the transactions and responses of a
run, the bits a command may access, the duty cycle. -/

namespace Sys2Proof

open Machine

/-! ### What a run shows -/

/-- The transaction a step completed, if any (20 R62). -/
def completed : RegPort → List RegPort
  | .idle => []
  | .reading _ none => []
  | .reading r (some w) => [.reading r (some w)]
  | .writing _ _ _ false => []
  | .writing r m v true => [.writing r m v true]

/-- The transactions of the first `n` steps from `s`, in order (20 R73). -/
def transactions : Nat → State → List RegPort
  | 0, _ => []
  | n + 1, s =>
    match step s with
    | .next t => completed t.regPort ++ transactions n t
    | .fault _ => []
    | .refused _ => []

/-- The responses of the first `n` steps from `s`, in order (30 R98). -/
def responses : Nat → State → List Response
  | 0, _ => []
  | n + 1, s =>
    match step s with
    | .next t => t.rsp.toList ++ responses n t
    | .fault _ => []
    | .refused _ => []

/-- The state after `n` steps. -/
def runs (n : Nat) (s t : State) : Prop := Host.Core.run core n s = .next t

/-- SEQ has just accepted the command `i` and only SEQ will move: the start of an undisturbed command (30 R104). -/
structure Accepted (i : Instr) (s : State) : Prop where
  busy   : s.busy = true
  stepNo : s.stepNo = 0
  cmd    : s.cmd = encode i
  moves  : s.moves = []

/-! ### Observations -/

/-- The duty cycle (10 R50): an exact fraction while the generator runs with a load value other than 0, else no value (93 U7). -/
def duty (g : RegSpace) : Option ℚ :=
  if pwmEnabled g.pwmCtl = true ∧ pwmField g.pwmLoad ≠ 0 then
    some ((((pwmField g.pwmLoad).toNat : ℚ) - (g.pwmCmpAct.toNat : ℚ)) / ((pwmField g.pwmLoad).toNat : ℚ))
  else none

/-- `bits m within allowed`: every bit of the mask is an allowed one. -/
def bitsWithin (m allowed : RegWord) : Prop := m &&& ~~~allowed = 0

/-- The register accesses a command may make, and the bits of each (10 R54). -/
def accessAllowed (i : Instr) (bd : Board) : RegPort → Prop
  | .idle => True
  | .reading r _ =>
    match i with
    | .setDuty _ => r = .pwmLoad
    | .transmitByte _ => r = .uartFlags
    | .receiveByte => r = .uartFlags ∨ r = .uartData
    | .configurePin _ _ _ _ => False
    | .attachInterrupt _ _ _ _ => False
    | .actForward => False
    | .actReverse => False
    | .actStop => False
    | .initPwm _ _ => False
  | .writing r m _ _ =>
    match i with
    | .configurePin port pin _ _ => ∃ p k, portSel port = some p ∧ pinSel pin = some k ∧
        ((r = .sysClkgate ∧ bitsWithin m (oneHot (bd.clkBit p))) ∨
         ((r = .gpio p .pur ∨ r = .gpio p .pdr ∨ r = .gpio p .dir ∨ r = .gpio p .den) ∧ bitsWithin m (oneHot k.val)))
    | .attachInterrupt port pin _ _ => ∃ p k, portSel port = some p ∧ pinSel pin = some k ∧
        (((r = .gpio p .is ∨ r = .gpio p .ibe ∨ r = .gpio p .icr ∨ r = .gpio p .im) ∧ bitsWithin m (oneHot k.val)) ∨
         (r = .icPri (bd.irqLine p) ∧ bitsWithin m 0x7) ∨ (r = .icEn (bd.irqLine p) ∧ bitsWithin m 0x1))
    | .actForward => r = .actDrv ∧ bitsWithin m 0x3
    | .actReverse => r = .actDrv ∧ bitsWithin m 0x3
    | .actStop => r = .actDrv ∧ bitsWithin m 0x3
    | .initPwm _ _ => (r = .pwmCtl ∧ bitsWithin m 0x3) ∨ (r = .pwmLoad ∧ bitsWithin m 0xFFFF) ∨
        (r = .pwmCmp ∧ bitsWithin m 0xFFFF)
    | .setDuty _ => r = .pwmCmp ∧ bitsWithin m 0xFFFF
    | .transmitByte _ => r = .uartData ∧ bitsWithin m 0xFF
    | .receiveByte => False

/-! ### The invariant -/

/-- The bit of pin `i` in a bank register. -/
def pinBit (w : RegWord) (i : Fin 8) : Bool := w.getLsbD i.val

/-- The opposite resistor of the pin is off (40 R112). -/
def oppositeOff (b : Bank) (i : Fin 8) : Resistor → Prop
  | .none => True
  | .pullUp => pinBit b.pdr i = false
  | .pullDown => pinBit b.pur i = false

/-- The requested resistor of the pin is on (40 R112). -/
def requestedOn (b : Bank) (i : Fin 8) : Resistor → Prop
  | .none => True
  | .pullUp => pinBit b.pur i = true
  | .pullDown => pinBit b.pdr i = true

/-- What holds while CONFIGURE_PIN is about to perform step `k`, whatever PLAT has done since the steps before (40 R116). -/
def configureProgress (p : Port) (i : Fin 8) (dir : Direction) (res : Resistor) (k : Nat) (bd : Board) (g : RegSpace) : Prop :=
  k ≤ 5 ∧
  (2 ≤ k → clockOn bd g p = true) ∧
  (k = 2 ∨ k = 3 → res ≠ .none) ∧
  (3 ≤ k → oppositeOff (g.banks.get p) i res) ∧
  (4 ≤ k → requestedOn (g.banks.get p) i res) ∧
  (5 ≤ k → pinBit (g.banks.get p).dir i = dirValue dir)

/-- What holds while ATTACH_INTERRUPT is about to perform step `k` (41 R134). The pending flag is not in it: PLAT may set it
again at any time (60 R204). -/
def attachProgress (p : Port) (i : Fin 8) (prio : BitVec 8) (edge : EdgeMode) (k : Nat) (bd : Board) (g : RegSpace) : Prop :=
  k ≤ 6 ∧
  (2 ≤ k → clockOn bd g p = true) ∧
  (2 ≤ k → pinBit (g.banks.get p).is i = false) ∧
  (3 ≤ k → pinBit (g.banks.get p).ibe i = edgeValue edge) ∧
  (5 ≤ k → pinBit (g.banks.get p).im i = true) ∧
  (6 ≤ k → (lineRead g.icPri (bd.irqLine p)).extractLsb' 0 3 = prio.extractLsb' 0 3)

/-- What holds while the command `i` is about to perform step `k`. -/
def commandProgress (i : Instr) (k : Nat) (s : State) : Prop :=
  match i with
  | .configurePin port pin dir res => k = 0 ∨
      ∃ p j r, configureOperands port pin res = some (p, j, r) ∧ configureProgress p j dir r k s.board s.regs
  | .attachInterrupt port pin prio edge => k = 0 ∨
      ∃ p j, attachOperands port pin prio = some (p, j) ∧ attachProgress p j prio edge k s.board s.regs
  | .actForward => k ≤ 2 ∧ (k = 2 → s.regs.actDrv.getLsbD 1 = false)
  | .actReverse => k ≤ 2 ∧ (k = 2 → s.regs.actDrv.getLsbD 0 = false)
  | .actStop => k ≤ 1
  | .initPwm load cmp => k ≤ 4 ∧ (2 ≤ k → pwmEnabled s.regs.pwmCtl = false ∧ pwmMode s.regs.pwmCtl = false) ∧
      (3 ≤ k → pwmField s.regs.pwmLoad = load) ∧ (4 ≤ k → pwmField s.regs.pwmCmp = boundedCompare cmp load)
  | .setDuty _ => k ≤ 2 ∧ (k = 2 → s.tmp = pwmField s.regs.pwmLoad)
  | .transmitByte _ => k ≤ 2 ∧ (k = 2 → s.regs.txRdy = true)
  | .receiveByte => k ≤ 2 ∧ (k = 2 → s.regs.rxq ≠ [])

/-- What holds of SEQ while a command is in progress: STEP names a step of the word in CMD (10 R23), and its earlier steps have
had their effect. -/
def sequencerInv (s : State) : Prop :=
  match decode s.cmd with
  | .command i => commandProgress i s.stepNo.toNat s
  | .illegal _ => s.stepNo = 0

/-- The invariant that every step keeps: the board meets 00 R12 and R13, the controller's registers are in canonical form over the
lines that exist, a command in progress is where its step table says, and a request that waits for its acknowledge is that of
SEQ's present step (20 R62). -/
structure Inv (s : State) : Prop where
  board    : s.board.WF
  enWf     : s.regs.icEn.wf
  priWf    : s.regs.icPri.wf
  enBelow  : LineFile.below s.board.nlines s.regs.icEn
  priBelow : LineFile.below s.board.nlines s.regs.icPri
  progress : s.busy = true → sequencerInv s
  port     : waiting s.regPort = .idle ∨ (s.busy = true ∧ waiting s.regPort = request s)

/-- The move is another agent's write to the register `r`. -/
def isOtherWriteTo (r : RegId) : Move → Bool
  | .otherWrite r' _ _ _ => r' == r
  | _ => false

/-- The move is a reset of the platform. -/
def isPlatformReset : Move → Bool
  | .platformReset _ _ _ => true
  | _ => false

end Sys2Proof
end

