-- ==== Sys2Proof/WellFormed.lean ====
section
/-! DEFINITION. Well-formed commands: those a call of the document can express, every operand in the range the document gives
it (00 R10). Every term of Instr fits its encoding (the fields' types say so); an ill-formed one is a legal word whose operand
names nothing (port 6 to 15, pin above 7, resistor code 3, priority above 7). Log entry 29. -/

namespace Sys2Proof

def Instr.wellFormed : Instr → Bool
  | .configurePin port pin _ res => decide (port.toNat ≤ 5) && decide (pin.toNat ≤ 7) && decide (res.toNat ≤ 2)
  | .attachInterrupt port pin prio _ => decide (port.toNat ≤ 5) && decide (pin.toNat ≤ 7) && decide (prio.toNat ≤ 7)
  | .actForward => true
  | .actReverse => true
  | .actStop => true
  | .initPwm _ _ => true
  | .setDuty _ => true
  | .transmitByte _ => true
  | .receiveByte => true

end Sys2Proof
end

