-- ==== Sys2Proof/Certificates/Slice0/Obligations.lean ====
section
/-! DEFINITION. The statements for the provers. Each docstring names the rule or the section of spec/ it formalises. -/

open Sys2Proof Sys2Proof.Machine

/-! ### Encoding -/

/-- 30 R103: the encoding function field by field, its examples, and both round trips. -/
def Obligations.EncodingFunctionRoundTrip : Prop :=
  (∀ (port : BitVec 4) (pin : BitVec 8) (dir : Direction) (res : BitVec 2),
    encode (.configurePin port pin dir res) =
      (0x1#36 <<< 32) ||| (port.setWidth 36 <<< 28) ||| (pin.setWidth 36 <<< 20) ||| (dir.toBit.setWidth 36 <<< 2) |||
        res.setWidth 36) ∧
  (∀ (port : BitVec 4) (pin prio : BitVec 8) (edge : EdgeMode),
    encode (.attachInterrupt port pin prio edge) =
      (0x2#36 <<< 32) ||| (port.setWidth 36 <<< 28) ||| (pin.setWidth 36 <<< 20) ||| (prio.setWidth 36 <<< 12) |||
        edge.toBit.setWidth 36) ∧
  encode .actForward = 0x4#36 <<< 32 ∧
  encode .actReverse = 0x5#36 <<< 32 ∧
  encode .actStop = 0x6#36 <<< 32 ∧
  (∀ load cmp : PwmWord,
    encode (.initPwm load cmp) = (0x8#36 <<< 32) ||| (load.setWidth 36 <<< 16) ||| cmp.setWidth 36) ∧
  (∀ cmp : PwmWord, encode (.setDuty cmp) = (0x9#36 <<< 32) ||| cmp.setWidth 36) ∧
  (∀ byte : Byte, encode (.transmitByte byte) = (0xC#36 <<< 32) ||| byte.setWidth 36) ∧
  encode .receiveByte = 0xD#36 <<< 32 ∧
  (∀ i : Instr, decode (encode i) = .command i) ∧
  (∀ (w : CmdWord) (i : Instr), decode w = .command i → encode i = w) ∧
  encode (.configurePin 5 4 .input 1) = 0x150400001 ∧
  encode (.attachInterrupt 5 4 3 .both) = 0x250403001 ∧
  encode (.initPwm 5000 4999) = 0x813881387 ∧
  encode (.setDuty 2500) = 0x9000009C4 ∧
  encode (.transmitByte 0x41) = 0xC00000041

/-- 95 section 2.1: words written out in the spec, one of each command, decode to the command they stand for. -/
def Obligations.SpecWordsDecode : Prop :=
  decode 0x150400001 = .command (.configurePin 5 4 .input 1) ∧
  decode 0x140200006 = .command (.configurePin 4 2 .output 2) ∧
  decode 0x240707001 = .command (.attachInterrupt 4 7 7 .both) ∧
  decode 0x400000000 = .command .actForward ∧
  decode 0x500000000 = .command .actReverse ∧
  decode 0x600000000 = .command .actStop ∧
  decode 0x8006400C8 = .command (.initPwm 100 200) ∧
  decode 0x9000009C4 = .command (.setDuty 2500) ∧
  decode 0xC00000041 = .command (.transmitByte 0x41) ∧
  decode 0xD00000000 = .command .receiveByte

/-- 30 R93: a word is command X exactly when (cmd & mask) = match; a word that matches no row is illegal. -/
def Obligations.DecodeByMaskAndMatch : Prop :=
  ∀ w : CmdWord,
    ((∃ port pin dir res, decode w = .command (.configurePin port pin dir res)) ↔ w &&& 0xF000FFFF8 = 0x100000000) ∧
    ((∃ port pin prio edge, decode w = .command (.attachInterrupt port pin prio edge)) ↔
      w &&& 0xF00000FFE = 0x200000000) ∧
    (decode w = .command .actForward ↔ w &&& 0xFFFFFFFFF = 0x400000000) ∧
    (decode w = .command .actReverse ↔ w &&& 0xFFFFFFFFF = 0x500000000) ∧
    (decode w = .command .actStop ↔ w &&& 0xFFFFFFFFF = 0x600000000) ∧
    ((∃ load cmp, decode w = .command (.initPwm load cmp)) ↔ w &&& 0xF00000000 = 0x800000000) ∧
    ((∃ cmp, decode w = .command (.setDuty cmp)) ↔ w &&& 0xFFFFF0000 = 0x900000000) ∧
    ((∃ byte, decode w = .command (.transmitByte byte)) ↔ w &&& 0xFFFFFFF00 = 0xC00000000) ∧
    (decode w = .command .receiveByte ↔ w &&& 0xFFFFFFFFF = 0xD00000000) ∧
    ((∃ e, decode w = .illegal e) ↔
      ¬ (w &&& 0xF000FFFF8 = 0x100000000 ∨ w &&& 0xF00000FFE = 0x200000000 ∨ w &&& 0xFFFFFFFFF = 0x400000000 ∨
         w &&& 0xFFFFFFFFF = 0x500000000 ∨ w &&& 0xFFFFFFFFF = 0x600000000 ∨ w &&& 0xF00000000 = 0x800000000 ∨
         w &&& 0xFFFFF0000 = 0x900000000 ∨ w &&& 0xFFFFFFF00 = 0xC00000000 ∨ w &&& 0xFFFFFFFFF = 0xD00000000))

/-- 30 R94, R95: reserved opcodes are illegal whatever the payload; a set bit in a `zero` field makes the word illegal. -/
def Obligations.ReservedEncodingsIllegal : Prop :=
  (∀ w : CmdWord,
    decode w = .illegal (.reservedOpcode (w.extractLsb' 32 4)) ↔
      w.extractLsb' 32 4 ∈ [0x0#4, 0x3#4, 0x7#4, 0xA#4, 0xB#4, 0xE#4, 0xF#4]) ∧
  (∀ w : CmdWord,
    decode w = .illegal (.reservedBitsSet (w.extractLsb' 32 4)) ↔
      (w.extractLsb' 32 4 = 0x1#4 ∧ w.extractLsb' 3 17 ≠ 0) ∨
      (w.extractLsb' 32 4 = 0x2#4 ∧ w.extractLsb' 1 11 ≠ 0) ∨
      (w.extractLsb' 32 4 ∈ [0x4#4, 0x5#4, 0x6#4, 0xD#4] ∧ w.extractLsb' 0 32 ≠ 0) ∨
      (w.extractLsb' 32 4 = 0x9#4 ∧ w.extractLsb' 16 16 ≠ 0) ∨
      (w.extractLsb' 32 4 = 0xC#4 ∧ w.extractLsb' 8 24 ≠ 0))

/-! ### The register space -/

/-- 20 section 2: a masked write changes exactly the bits of its mask in the one register it names; every other register reads
as before, the hidden state of PLAT is as before (but for CMP_ACT and COUNT at a write of PWM.CTL, which may start the
generator), and nothing of SEQ changes but what its port shows. (ICR and UART.DATA, which store nothing, have statements of
their own.) -/
def Obligations.MaskedWriteTouchesOnlyItsBits : Prop :=
  ∀ (s : State) (r : RegId) (m v : RegWord) (t : State),
    s.regs.icEn.wf → s.regs.icPri.wf → r ≠ .uartData → (∀ p, r ≠ .gpio p .icr) →
    memWriteMasked r m v s = .next t →
      (∀ w w' : RegWord, loadReg r s.regs = .next (w, s.regs) → loadReg r t.regs = .next (w', t.regs) →
        ∀ j, w'.getLsbD j = if m.getLsbD j then v.getLsbD j else w.getLsbD j) ∧
      (∀ (r' : RegId) (w : RegWord), r' ≠ r → loadReg r' s.regs = .next (w, s.regs) →
        loadReg r' t.regs = .next (w, t.regs)) ∧
      t.regs.rxq = s.regs.rxq ∧ t.regs.txLog = s.regs.txLog ∧ t.regs.txRdy = s.regs.txRdy ∧
      t.regs.flagsHi = s.regs.flagsHi ∧ t.regs.dataHi = s.regs.dataHi ∧
      (r ≠ .pwmCtl → t.regs.pwmCmpAct = s.regs.pwmCmpAct ∧ t.regs.pwmCount = s.regs.pwmCount) ∧
      t = { s with regs := t.regs, regPort := .writing r m v true }

/-- 10 R40: a write to ICR clears exactly the pending flags whose mask and data bits are both 1, and changes no other
register. -/
def Obligations.IcrWriteOneToClear : Prop :=
  ∀ (s : State) (p : Port) (m v : RegWord), clockOn s.board s.regs p = true →
    ∃ w : RegWord,
      (∀ j, w.getLsbD j = ((s.regs.banks.get p).pend.getLsbD j && !(m.getLsbD j && v.getLsbD j))) ∧
      memWriteMasked (.gpio p .icr) m v s =
        .next { s with
          regs := { s.regs with banks := s.regs.banks.set p { s.regs.banks.get p with pend := w } }
          regPort := .writing (.gpio p .icr) m v true }

/-- 20 section 1 and 10 R42, R43 as the model holds them (log entry 11): writing one line's register reads back there, leaves
the other lines, and keeps the canonical form. -/
def Obligations.LineRegistersReadAfterWrite : Prop :=
  ∀ (f : LineFile) (l l' : Nat) (v : RegWord), f.wf →
    lineRead (lineWrite f l v) l' = (if l' = l then v else lineRead f l') ∧ (lineWrite f l v).wf

/-- Equal readings mean equal data: two canonical line files that read alike at every line are the same list (log entry 11). -/
def Obligations.LineRegistersCanonical : Prop :=
  ∀ f f' : LineFile, f.wf → f'.wf → (∀ l, lineRead f l = lineRead f' l) → f = f'

/-- 10 R51, 43 R188: a read of UART.FLAGS has no side effect, shows TXRDY in bit 0 and, in bit 1, whether RXQ is not empty. -/
def Obligations.FlagsReadShowsReadiness : Prop :=
  ∀ s : State, ∃ w : RegWord,
    memRead .uartFlags s = .next (w, { s with regPort := .reading .uartFlags (some w) }) ∧
    w.getLsbD 0 = s.regs.txRdy ∧ (w.getLsbD 1 = true ↔ s.regs.rxq ≠ [])

/-! ### Reset, acceptance, and one step -/

/-- 10 section 9, 70 section 1: right after reset, on any board, SEQ is idle at STEP 0, no response and no request is shown,
and both drive lines are deasserted; TXLOG is empty. -/
def Obligations.ResetLeavesIdleAndStopped : Prop :=
  ∀ b : Board,
    let s := State.resetOn b
    s.busy = false ∧ s.stepNo = 0 ∧ s.rsp = none ∧ s.regPort = .idle ∧ actuator s.regs = .stopped ∧ s.regs.txLog = [] ∧
      s.board = b

/-- 30 section 1: acceptance takes the word into CMD, STEP to 0 and BUSY to 1 in one step; no transaction is made, and nothing
else of SEQ or of the register space changes; SEQ, busy until it responds, accepts no second word meanwhile. That the step also
empties the command port and withdraws the outputs of the step before is the model's choice (log entry 8), and so is the script
(log entry 2). -/
def Obligations.AcceptanceOfCommand : Prop :=
  (∀ (s : State) (w : CmdWord), nextMove s = .seq → s.busy = false → s.cmdPort = some w →
    step s = .next { s with
      cmd := w, stepNo := 0, busy := true, cmdPort := none, rsp := none, regPort := .idle, moves := s.moves.tail }) ∧
  (∀ s t : State, nextMove s = .seq → s.busy = true → step s = .next t → t.cmdPort = s.cmdPort ∧ t.cmd = s.cmd)

/-- An idle sequencer with no word presented does nothing (60 section 6). The outputs of the step before are withdrawn and the
script moves on (log entries 8 and 2). -/
def Obligations.IdleSequencerWaits : Prop :=
  ∀ s : State, nextMove s = .seq → s.busy = false → s.cmdPort = none →
    step s = .next { s with rsp := none, regPort := .idle, moves := s.moves.tail }

/-- A step runs the decoded command: when SEQ moves while busy, step is exec of the command in CMD, on the state with the last
step's outputs withdrawn and the script moved on. -/
def Obligations.StepRunsDecodedCommand : Prop :=
  ∀ (s : State) (i : Instr), nextMove s = .seq → s.busy = true → decode s.cmd = .command i →
    step s = exec i { s with rsp := none, regPort := .idle, moves := s.moves.tail }

/-- 60 section 1: step S0 of an illegal word responds with status 2 and data 0, makes no transaction, and BUSY falls. What the
ports show, the script, and the number STEP keeps are the model's form (log entries 8, 2 and 7). -/
def Obligations.IllegalWordRejected : Prop :=
  ∀ (s : State) (e : DecodeError), nextMove s = .seq → s.busy = true → s.stepNo = 0 → decode s.cmd = .illegal e →
    step s = .next { s with
      busy := false, rsp := some ⟨2, 0⟩, regPort := .idle, moves := s.moves.tail }

/-! ### CONFIGURE_PIN -/

/-- 40 R110: S0 of CONFIGURE_PIN goes on exactly when the port is 0..5, the pin 0..7 and the resistor code not 3; else it
responds with status 1, and what STEP holds then has no meaning (10 R23): some `k`. No transaction either way. -/
def Obligations.ConfigurePinValidation : Prop :=
  ∀ (port : BitVec 4) (pin : BitVec 8) (dir : Direction) (res : BitVec 2) (s : State), s.stepNo = 0 →
    (port.toNat ≤ 5 ∧ pin.toNat ≤ 7 ∧ res ≠ 3 → exec (.configurePin port pin dir res) s = .next { s with stepNo := 1 }) ∧
    (¬ (port.toNat ≤ 5 ∧ pin.toNat ≤ 7 ∧ res ≠ 3) → ∃ k : StepNo,
      exec (.configurePin port pin dir res) s = .next { s with busy := false, stepNo := k, rsp := some ⟨1, 0⟩ })

/-- 40 R111 to R114: the result of each step S1 to S5 of CONFIGURE_PIN on checked operands, the whole next state; after the last
STEP has no meaning (10 R23): some `k`. -/
def Obligations.ConfigurePinSteps : Prop :=
  ∀ (port : BitVec 4) (pin : BitVec 8) (dir : Direction) (res : BitVec 2) (p : Port) (i : Fin 8) (r : Resistor) (s : State),
    portSel port = some p → pinSel pin = some i → resSel res = some r →
    let m := oneHot i.val
    let c := oneHot (s.board.clkBit p)
    let d := if dir = .output then m else 0
    let b := s.regs.banks.get p
    (s.stepNo = 1 → exec (.configurePin port pin dir res) s = .next { s with
      regs := { s.regs with clkgate := merge s.regs.clkgate c c }
      regPort := .writing .sysClkgate c c true
      stepNo := if r = .none then 4 else 2 }) ∧
    (s.stepNo = 2 → r = .pullUp → clockOn s.board s.regs p = true → exec (.configurePin port pin dir res) s = .next { s with
      regs := { s.regs with banks := s.regs.banks.set p { b with pdr := merge b.pdr m 0 } }
      regPort := .writing (.gpio p .pdr) m 0 true
      stepNo := 3 }) ∧
    (s.stepNo = 2 → r = .pullDown → clockOn s.board s.regs p = true → exec (.configurePin port pin dir res) s = .next { s with
      regs := { s.regs with banks := s.regs.banks.set p { b with pur := merge b.pur m 0 } }
      regPort := .writing (.gpio p .pur) m 0 true
      stepNo := 3 }) ∧
    (s.stepNo = 3 → r = .pullUp → clockOn s.board s.regs p = true → exec (.configurePin port pin dir res) s = .next { s with
      regs := { s.regs with banks := s.regs.banks.set p { b with pur := merge b.pur m m } }
      regPort := .writing (.gpio p .pur) m m true
      stepNo := 4 }) ∧
    (s.stepNo = 3 → r = .pullDown → clockOn s.board s.regs p = true → exec (.configurePin port pin dir res) s = .next { s with
      regs := { s.regs with banks := s.regs.banks.set p { b with pdr := merge b.pdr m m } }
      regPort := .writing (.gpio p .pdr) m m true
      stepNo := 4 }) ∧
    (s.stepNo = 4 → clockOn s.board s.regs p = true → exec (.configurePin port pin dir res) s = .next { s with
      regs := { s.regs with banks := s.regs.banks.set p { b with dir := merge b.dir m d } }
      regPort := .writing (.gpio p .dir) m d true
      stepNo := 5 }) ∧
    (s.stepNo = 5 → clockOn s.board s.regs p = true → ∃ k : StepNo, exec (.configurePin port pin dir res) s = .next { s with
      regs := { s.regs with banks := s.regs.banks.set p { b with den := merge b.den m m } }
      regPort := .writing (.gpio p .den) m m true
      stepNo := k
      busy := false
      rsp := some ⟨0, 0⟩ })

/-- 40 R115: the whole of CONFIGURE_PIN, undisturbed, from acceptance: with a resistor six steps and five transactions, with none
four steps and three, in the order given, all masked writes of one bit; then the response with status 0. With an operand out of
range one step, no transaction and the response with status 1. What STEP holds afterwards has no meaning (10 R23): some `k`. -/
def Obligations.ConfigurePinWholeCommand : Prop :=
  (∀ (port : BitVec 4) (pin : BitVec 8) (dir : Direction) (res : BitVec 2) (p : Port) (i : Fin 8) (r : Resistor) (s : State),
    portSel port = some p → pinSel pin = some i → resSel res = some r → Accepted (.configurePin port pin dir res) s →
    let m := oneHot i.val
    let c := oneHot (s.board.clkBit p)
    let d := if dir = .output then m else 0
    let b := s.regs.banks.get p
    let clk := merge s.regs.clkgate c c
    (r = .none →
      transactions 4 s = [.writing .sysClkgate c c true, .writing (.gpio p .dir) m d true, .writing (.gpio p .den) m m true] ∧
      ∃ k : StepNo, runs 4 s { s with
        busy := false, stepNo := k, rsp := some ⟨0, 0⟩, regPort := .writing (.gpio p .den) m m true
        regs := { s.regs with
          clkgate := clk, banks := s.regs.banks.set p { b with dir := merge b.dir m d, den := merge b.den m m } } }) ∧
    (r = .pullUp →
      transactions 6 s = [.writing .sysClkgate c c true, .writing (.gpio p .pdr) m 0 true, .writing (.gpio p .pur) m m true,
        .writing (.gpio p .dir) m d true, .writing (.gpio p .den) m m true] ∧
      ∃ k : StepNo, runs 6 s { s with
        busy := false, stepNo := k, rsp := some ⟨0, 0⟩, regPort := .writing (.gpio p .den) m m true
        regs := { s.regs with
          clkgate := clk, banks := s.regs.banks.set p
            { b with pdr := merge b.pdr m 0, pur := merge b.pur m m, dir := merge b.dir m d, den := merge b.den m m } } }) ∧
    (r = .pullDown →
      transactions 6 s = [.writing .sysClkgate c c true, .writing (.gpio p .pur) m 0 true, .writing (.gpio p .pdr) m m true,
        .writing (.gpio p .dir) m d true, .writing (.gpio p .den) m m true] ∧
      ∃ k : StepNo, runs 6 s { s with
        busy := false, stepNo := k, rsp := some ⟨0, 0⟩, regPort := .writing (.gpio p .den) m m true
        regs := { s.regs with
          clkgate := clk, banks := s.regs.banks.set p
            { b with pur := merge b.pur m 0, pdr := merge b.pdr m m, dir := merge b.dir m d, den := merge b.den m m } } })) ∧
  (∀ (port : BitVec 4) (pin : BitVec 8) (dir : Direction) (res : BitVec 2) (s : State),
    configureOperands port pin res = none → Accepted (.configurePin port pin dir res) s →
    transactions 1 s = [] ∧
    ∃ k : StepNo, runs 1 s { s with busy := false, stepNo := k, rsp := some ⟨1, 0⟩, regPort := .idle })

/-- 40 section 3 (end state), whatever PLAT does between the steps: the last step of CONFIGURE_PIN answers a next state, and in
it the clock bit, the direction bit, the digital-enable bit and the resistor bits of the pin are as the operands ask. -/
def Obligations.ConfigurePinEndState : Prop :=
  ∀ (port : BitVec 4) (pin : BitVec 8) (dir : Direction) (res : BitVec 2) (p : Port) (i : Fin 8) (r : Resistor) (s : State),
    Inv s → s.busy = true → decode s.cmd = .command (.configurePin port pin dir res) → s.stepNo = 5 →
    configureOperands port pin res = some (p, i, r) →
    ∃ t, exec (.configurePin port pin dir res) s = .next t ∧
      t.busy = false ∧ t.rsp = some ⟨0, 0⟩ ∧
      t.regs.clkgate.getLsbD (t.board.clkBit p) = true ∧
      (t.regs.banks.get p).dir.getLsbD i.val = decide (dir = .output) ∧
      (t.regs.banks.get p).den.getLsbD i.val = true ∧
      (r = .pullUp → (t.regs.banks.get p).pur.getLsbD i.val = true ∧ (t.regs.banks.get p).pdr.getLsbD i.val = false) ∧
      (r = .pullDown → (t.regs.banks.get p).pdr.getLsbD i.val = true ∧ (t.regs.banks.get p).pur.getLsbD i.val = false)

/-- 10 section 8 (resistor invariant), at every step of CONFIGURE_PIN under the invariant: if the two resistor bits of a pin are
not both 1, they are not both 1 after any step of any command. -/
def Obligations.ResistorsNeverBothEnabled : Prop :=
  ∀ (s t : State) (i : Instr) (q : Port) (j : Fin 8), Inv s → s.busy = true → decode s.cmd = .command i →
    exec i s = .next t →
    ¬ ((s.regs.banks.get q).pur.getLsbD j.val = true ∧ (s.regs.banks.get q).pdr.getLsbD j.val = true) →
    ¬ ((t.regs.banks.get q).pur.getLsbD j.val = true ∧ (t.regs.banks.get q).pdr.getLsbD j.val = true)

/-! ### ATTACH_INTERRUPT -/

/-- 41 R126: S0 of ATTACH_INTERRUPT goes on exactly when the port is 0..5, the pin 0..7 and the priority 0..7; else it responds
with status 1, and what STEP holds then has no meaning (10 R23): some `k`. No transaction either way. -/
def Obligations.AttachInterruptValidation : Prop :=
  ∀ (port : BitVec 4) (pin prio : BitVec 8) (edge : EdgeMode) (s : State), s.stepNo = 0 →
    (port.toNat ≤ 5 ∧ pin.toNat ≤ 7 ∧ prio.toNat ≤ 7 →
      exec (.attachInterrupt port pin prio edge) s = .next { s with stepNo := 1 }) ∧
    (¬ (port.toNat ≤ 5 ∧ pin.toNat ≤ 7 ∧ prio.toNat ≤ 7) → ∃ k : StepNo,
      exec (.attachInterrupt port pin prio edge) s = .next { s with busy := false, stepNo := k, rsp := some ⟨1, 0⟩ })

/-- 41 R127 to R132: the result of each step S1 to S6 of ATTACH_INTERRUPT on checked operands, the whole next state; after the
last STEP has no meaning (10 R23): some `k`. -/
def Obligations.AttachInterruptSteps : Prop :=
  ∀ (port : BitVec 4) (pin prio : BitVec 8) (edge : EdgeMode) (p : Port) (i : Fin 8) (s : State),
    portSel port = some p → pinSel pin = some i → prio.toNat ≤ 7 →
    let m := oneHot i.val
    let e := if edge = .both then m else 0
    let b := s.regs.banks.get p
    let l := s.board.irqLine p
    (s.stepNo = 1 → clockOn s.board s.regs p = true → exec (.attachInterrupt port pin prio edge) s = .next { s with
      regs := { s.regs with banks := s.regs.banks.set p { b with is := merge b.is m 0 } }
      regPort := .writing (.gpio p .is) m 0 true
      stepNo := 2 }) ∧
    (s.stepNo = 2 → clockOn s.board s.regs p = true → exec (.attachInterrupt port pin prio edge) s = .next { s with
      regs := { s.regs with banks := s.regs.banks.set p { b with ibe := merge b.ibe m e } }
      regPort := .writing (.gpio p .ibe) m e true
      stepNo := 3 }) ∧
    (s.stepNo = 3 → clockOn s.board s.regs p = true → exec (.attachInterrupt port pin prio edge) s = .next { s with
      regs := { s.regs with banks := s.regs.banks.set p { b with pend := merge b.pend m 0 } }
      regPort := .writing (.gpio p .icr) m m true
      stepNo := 4 }) ∧
    (s.stepNo = 4 → clockOn s.board s.regs p = true → exec (.attachInterrupt port pin prio edge) s = .next { s with
      regs := { s.regs with banks := s.regs.banks.set p { b with im := merge b.im m m } }
      regPort := .writing (.gpio p .im) m m true
      stepNo := 5 }) ∧
    (s.stepNo = 5 → l < s.board.nlines → exec (.attachInterrupt port pin prio edge) s = .next { s with
      regs := { s.regs with
        icPri := lineWrite s.regs.icPri l (merge (lineRead s.regs.icPri l) 0x7 (BitVec.ofNat 32 prio.toNat)) }
      regPort := .writing (.icPri l) 0x7 (BitVec.ofNat 32 prio.toNat) true
      stepNo := 6 }) ∧
    (s.stepNo = 6 → l < s.board.nlines → ∃ k : StepNo, exec (.attachInterrupt port pin prio edge) s = .next { s with
      regs := { s.regs with icEn := lineWrite s.regs.icEn l (merge (lineRead s.regs.icEn l) 0x1 0x1) }
      regPort := .writing (.icEn l) 0x1 0x1 true
      stepNo := k
      busy := false
      rsp := some ⟨0, 0⟩ })

/-- 41 R133: the whole of ATTACH_INTERRUPT, undisturbed, from acceptance with the port's clock on: seven steps, exactly six
transactions, all masked writes, in the order given; then the response with status 0. With an operand out of range one step, no
transaction and the response with status 1. What STEP holds afterwards has no meaning (10 R23): some `k`. -/
def Obligations.AttachInterruptWholeCommand : Prop :=
  (∀ (port : BitVec 4) (pin prio : BitVec 8) (edge : EdgeMode) (p : Port) (i : Fin 8) (s : State),
    portSel port = some p → pinSel pin = some i → prio.toNat ≤ 7 → Accepted (.attachInterrupt port pin prio edge) s →
    clockOn s.board s.regs p = true → s.board.irqLine p < s.board.nlines →
    let m := oneHot i.val
    let e := if edge = .both then m else 0
    let b := s.regs.banks.get p
    let l := s.board.irqLine p
    let v := BitVec.ofNat 32 prio.toNat
    transactions 7 s = [.writing (.gpio p .is) m 0 true, .writing (.gpio p .ibe) m e true, .writing (.gpio p .icr) m m true,
      .writing (.gpio p .im) m m true, .writing (.icPri l) 0x7 v true, .writing (.icEn l) 0x1 0x1 true] ∧
    ∃ k : StepNo, runs 7 s { s with
      busy := false, stepNo := k, rsp := some ⟨0, 0⟩, regPort := .writing (.icEn l) 0x1 0x1 true
      regs := { s.regs with
        banks := s.regs.banks.set p
          { b with is := merge b.is m 0, ibe := merge b.ibe m e, pend := merge b.pend m 0, im := merge b.im m m }
        icPri := lineWrite s.regs.icPri l (merge (lineRead s.regs.icPri l) 0x7 v)
        icEn := lineWrite s.regs.icEn l (merge (lineRead s.regs.icEn l) 0x1 0x1) } }) ∧
  (∀ (port : BitVec 4) (pin prio : BitVec 8) (edge : EdgeMode) (s : State),
    attachOperands port pin prio = none → Accepted (.attachInterrupt port pin prio edge) s →
    transactions 1 s = [] ∧
    ∃ k : StepNo, runs 1 s { s with busy := false, stepNo := k, rsp := some ⟨1, 0⟩, regPort := .idle })

/-- 41 (end state), whatever PLAT does between the steps: the last step of ATTACH_INTERRUPT answers a next state, and in it the
pin is edge-sensed, its both-edges bit is `edge`, it is armed, its port's line has the priority and is enabled. -/
def Obligations.AttachInterruptEndState : Prop :=
  ∀ (port : BitVec 4) (pin prio : BitVec 8) (edge : EdgeMode) (p : Port) (i : Fin 8) (s : State),
    Inv s → s.busy = true → decode s.cmd = .command (.attachInterrupt port pin prio edge) → s.stepNo = 6 →
    attachOperands port pin prio = some (p, i) →
    ∃ t, exec (.attachInterrupt port pin prio edge) s = .next t ∧
      t.busy = false ∧ t.rsp = some ⟨0, 0⟩ ∧
      (t.regs.banks.get p).is.getLsbD i.val = false ∧
      (t.regs.banks.get p).ibe.getLsbD i.val = decide (edge = .both) ∧
      (t.regs.banks.get p).im.getLsbD i.val = true ∧
      ((lineRead t.regs.icPri (t.board.irqLine p)).extractLsb' 0 3).toNat = prio.toNat ∧
      (lineRead t.regs.icEn (t.board.irqLine p)).getLsbD 0 = true ∧
      (t.regs.banks.get p).iev = (s.regs.banks.get p).iev

/-- 60 R218 as ATTACH_INTERRUPT meets it: its first transaction on a port whose clock is off is the fault UnclockedAccess. -/
def Obligations.AttachToUnclockedPortFaults : Prop :=
  ∀ (port : BitVec 4) (pin prio : BitVec 8) (edge : EdgeMode) (p : Port) (i : Fin 8) (s : State),
    attachOperands port pin prio = some (p, i) → s.stepNo = 1 → clockOn s.board s.regs p = false →
    exec (.attachInterrupt port pin prio edge) s = .fault (.unclockedAccess p)

/-! ### The actuator -/

/-- 42 section 1: the result of every step of the three direction commands, in every state: break before make on ACT.DRV, and
nothing else (after a response STEP has no meaning, 10 R23: some `k`); a word of theirs with a set bit in 31:0 is illegal. -/
def Obligations.ActuatorSteps : Prop :=
  (∀ s : State,
    (s.stepNo = 0 → ∀ i ∈ [Instr.actForward, .actReverse, .actStop], exec i s = .next { s with stepNo := 1 }) ∧
    (s.stepNo = 1 →
      exec .actForward s = .next { s with
        regs := { s.regs with actDrv := s.regs.actDrv &&& ~~~0x2 }, regPort := .writing .actDrv 0x2 0x0 true, stepNo := 2 } ∧
      exec .actReverse s = .next { s with
        regs := { s.regs with actDrv := s.regs.actDrv &&& ~~~0x1 }, regPort := .writing .actDrv 0x1 0x0 true, stepNo := 2 } ∧
      ∃ k : StepNo, exec .actStop s = .next { s with
        regs := { s.regs with actDrv := s.regs.actDrv &&& ~~~0x3 }, regPort := .writing .actDrv 0x3 0x0 true
        stepNo := k, busy := false, rsp := some ⟨0, 0⟩ }) ∧
    (s.stepNo = 2 →
      (∃ k : StepNo, exec .actForward s = .next { s with
        regs := { s.regs with actDrv := s.regs.actDrv ||| 0x1 }, regPort := .writing .actDrv 0x1 0x1 true
        stepNo := k, busy := false, rsp := some ⟨0, 0⟩ }) ∧
      ∃ k : StepNo, exec .actReverse s = .next { s with
        regs := { s.regs with actDrv := s.regs.actDrv ||| 0x2 }, regPort := .writing .actDrv 0x2 0x2 true
        stepNo := k, busy := false, rsp := some ⟨0, 0⟩ })) ∧
  (∀ w : CmdWord, w.extractLsb' 32 4 ∈ [0x4#4, 0x5#4, 0x6#4] → w.extractLsb' 0 32 ≠ 0 → ∃ e, decode w = .illegal e)

/-- 42 R146: the transition table: ACT.DRV[1:0] after each transaction and at the end of each direction command, for every value
before it; the initial state is Stopped. -/
def Obligations.ActuatorTransitionTable : Prop :=
  (∀ b : Board, driveLines (State.resetOn b).regs = 0b00) ∧
  ∀ s : State,
    (Accepted .actForward s → ∃ t u, runs 2 s t ∧ runs 3 s u ∧ u.busy = false ∧ u.rsp = some ⟨0, 0⟩ ∧
      driveLines t.regs = driveLines s.regs &&& 0b01 ∧ driveLines u.regs = 0b01) ∧
    (Accepted .actReverse s → ∃ t u, runs 2 s t ∧ runs 3 s u ∧ u.busy = false ∧ u.rsp = some ⟨0, 0⟩ ∧
      driveLines t.regs = driveLines s.regs &&& 0b10 ∧ driveLines u.regs = 0b10) ∧
    (Accepted .actStop s → ∃ u, runs 2 s u ∧ u.busy = false ∧ u.rsp = some ⟨0, 0⟩ ∧ driveLines u.regs = 0b00)

/-- 10 R56: the two drive lines are never both asserted, over any number of steps of any interleaving, from any state of the
invariant in which they are not, unless another agent writes ACT.DRV. -/
def Obligations.DriveLinesNeverBothAsserted : Prop :=
  driveLines State.reset.regs = 0b00 ∧
  ∀ (n : Nat) (s t : State), Inv s → driveLines s.regs ≠ 0b11 → (∀ m ∈ s.moves, isOtherWriteTo .actDrv m = false) →
    runs n s t → driveLines t.regs ≠ 0b11

/-! ### PWM -/

/-- 42 section 2: the result of every step of INIT_PWM, in every state; after the last STEP has no meaning (10 R23): some `k`. -/
def Obligations.InitPwmSteps : Prop :=
  ∀ (load cmp : PwmWord) (s : State),
    let ld : RegWord := load.setWidth 32
    let cp : RegWord := (if cmp.toNat ≤ load.toNat then cmp else load).setWidth 32
    (s.stepNo = 0 → exec (.initPwm load cmp) s = .next { s with stepNo := 1 }) ∧
    (s.stepNo = 1 → exec (.initPwm load cmp) s = .next { s with
      regs := { s.regs with pwmCtl := s.regs.pwmCtl &&& ~~~0x3 }
      regPort := .writing .pwmCtl 0x3 0x0 true
      stepNo := 2 }) ∧
    (s.stepNo = 2 → exec (.initPwm load cmp) s = .next { s with
      regs := { s.regs with pwmLoad := merge s.regs.pwmLoad 0xFFFF ld }
      regPort := .writing .pwmLoad 0xFFFF ld true
      stepNo := 3 }) ∧
    (s.stepNo = 3 → exec (.initPwm load cmp) s = .next { s with
      regs := { s.regs with pwmCmp := merge s.regs.pwmCmp 0xFFFF cp }
      regPort := .writing .pwmCmp 0xFFFF cp true
      stepNo := 4 }) ∧
    (s.stepNo = 4 → s.regs.pwmCtl.getLsbD 0 = false → ∃ k : StepNo, exec (.initPwm load cmp) s = .next { s with
      regs := { s.regs with
        pwmCtl := merge s.regs.pwmCtl 0x3 0x1
        pwmCmpAct := s.regs.pwmCmp.extractLsb' 0 16
        pwmCount := s.regs.pwmLoad.extractLsb' 0 16 }
      regPort := .writing .pwmCtl 0x3 0x1 true
      stepNo := k
      busy := false
      rsp := some ⟨0, 0⟩ })

/-- 42 R155: the whole of INIT_PWM, undisturbed, from acceptance: four transactions, all masked writes, and the end state; every
word with opcode 0x8 is legal. -/
def Obligations.InitPwmWholeCommand : Prop :=
  (∀ (load cmp : PwmWord) (s : State), Accepted (.initPwm load cmp) s →
    let cp : PwmWord := if cmp.toNat ≤ load.toNat then cmp else load
    transactions 5 s = [.writing .pwmCtl 0x3 0x0 true, .writing .pwmLoad 0xFFFF (load.setWidth 32) true,
      .writing .pwmCmp 0xFFFF (cp.setWidth 32) true, .writing .pwmCtl 0x3 0x1 true] ∧
    ∃ t, runs 5 s t ∧ t.busy = false ∧ t.rsp = some ⟨0, 0⟩ ∧
      t.regs.pwmCtl.extractLsb' 0 2 = 0b01 ∧ t.regs.pwmLoad.extractLsb' 0 16 = load ∧ t.regs.pwmCmp.extractLsb' 0 16 = cp ∧
      t.regs.pwmCmpAct = cp ∧ t.regs.pwmCount = load ∧
      t.regs = { s.regs with
        pwmCtl := t.regs.pwmCtl, pwmLoad := t.regs.pwmLoad, pwmCmp := t.regs.pwmCmp
        pwmCmpAct := t.regs.pwmCmpAct, pwmCount := t.regs.pwmCount }) ∧
  (∀ w : CmdWord, w.extractLsb' 32 4 = 0x8#4 → ∃ load cmp, decode w = .command (.initPwm load cmp))

/-- 42 section 2 and 10 R50, whatever PLAT does between the steps: when INIT_PWM ends, the compare value is the bounded one, is
at most the load value, and the duty cycle is (load - cmp) / load, or has no value with load 0. -/
def Obligations.InitPwmEndState : Prop :=
  ∀ (load cmp : PwmWord) (s : State), Inv s → s.busy = true → decode s.cmd = .command (.initPwm load cmp) → s.stepNo = 4 →
    ∃ t, exec (.initPwm load cmp) s = .next t ∧ t.busy = false ∧ t.rsp = some ⟨0, 0⟩ ∧
      pwmField t.regs.pwmLoad = load ∧
      (pwmField t.regs.pwmCmp).toNat = min cmp.toNat load.toNat ∧
      t.regs.pwmCmpAct = pwmField t.regs.pwmCmp ∧
      duty t.regs = if load = 0 then none
        else some (((load.toNat : ℚ) - (min cmp.toNat load.toNat : ℕ)) / (load.toNat : ℚ))

/-- 42 section 2: the result of every step of SET_DUTY, in every state: one read of PWM.LOAD, one bounded write of PWM.CMP, and
nothing else; after the last STEP and TMP have no meaning (10 R23, R25): some `k` and `v`. -/
def Obligations.SetDutySteps : Prop :=
  ∀ (cmp : PwmWord) (s : State),
    let cp : RegWord := (if cmp.toNat ≤ s.tmp.toNat then cmp else s.tmp).setWidth 32
    (s.stepNo = 0 → exec (.setDuty cmp) s = .next { s with stepNo := 1 }) ∧
    (s.stepNo = 1 → exec (.setDuty cmp) s = .next { s with
      tmp := s.regs.pwmLoad.extractLsb' 0 16
      regPort := .reading .pwmLoad (some s.regs.pwmLoad)
      stepNo := 2 }) ∧
    (s.stepNo = 2 → ∃ (k : StepNo) (v : PwmWord), exec (.setDuty cmp) s = .next { s with
      regs := { s.regs with pwmCmp := merge s.regs.pwmCmp 0xFFFF cp }
      regPort := .writing .pwmCmp 0xFFFF cp true
      stepNo := k
      tmp := v
      busy := false
      rsp := some ⟨0, 0⟩ })

/-- 42 R159: the whole of SET_DUTY, undisturbed, from acceptance: one read and one masked write; a word with a set bit in
31:16 is illegal. What STEP and TMP hold afterwards has no meaning (10 R23, R25): some `k` and `v`. -/
def Obligations.SetDutyWholeCommand : Prop :=
  (∀ (cmp : PwmWord) (s : State), Accepted (.setDuty cmp) s →
    let load : PwmWord := s.regs.pwmLoad.extractLsb' 0 16
    let cp : RegWord := (if cmp.toNat ≤ load.toNat then cmp else load).setWidth 32
    transactions 3 s = [.reading .pwmLoad (some s.regs.pwmLoad), .writing .pwmCmp 0xFFFF cp true] ∧
    ∃ (k : StepNo) (v : PwmWord), runs 3 s { s with
      busy := false, stepNo := k, tmp := v, rsp := some ⟨0, 0⟩, regPort := .writing .pwmCmp 0xFFFF cp true
      regs := { s.regs with pwmCmp := merge s.regs.pwmCmp 0xFFFF cp } }) ∧
  (∀ w : CmdWord, w.extractLsb' 32 4 = 0x9#4 → w.extractLsb' 16 16 ≠ 0 → ∃ e, decode w = .illegal e)

/-- 42 R160, whatever PLAT does between the steps: SET_DUTY ends with status 0 and the compare register holds the operand if that
is at most the load value, the load value if it is above. -/
def Obligations.SetDutyClamps : Prop :=
  ∀ (cmp : PwmWord) (s : State), Inv s → s.busy = true → decode s.cmd = .command (.setDuty cmp) → s.stepNo = 2 →
    ∃ t, exec (.setDuty cmp) s = .next t ∧ t.rsp = some ⟨0, 0⟩ ∧
      (cmp.toNat ≤ (pwmField s.regs.pwmLoad).toNat → pwmField t.regs.pwmCmp = cmp) ∧
      ((pwmField s.regs.pwmLoad).toNat < cmp.toNat → pwmField t.regs.pwmCmp = pwmField s.regs.pwmLoad) ∧
      t.regs.pwmLoad = s.regs.pwmLoad ∧ t.regs.pwmCmpAct = s.regs.pwmCmpAct

/-- 42 R167: the reload step: only while EN = 1, CMP_ACT and COUNT take CMP and LOAD in one step, and nothing else changes. -/
def Obligations.ReloadStep : Prop :=
  ∀ s : State, nextMove s = .reload →
    step s = .next { s with
      rsp := none, regPort := waiting s.regPort, moves := s.moves.tail
      regs := if s.regs.pwmCtl.getLsbD 0 = true then
          { s.regs with
            pwmCmpAct := s.regs.pwmCmp.extractLsb' 0 16, pwmCount := s.regs.pwmLoad.extractLsb' 0 16 }
        else s.regs }

/-- 42 R168: a write that changes EN from 0 to 1 includes a reload; a write of EN = 1 while EN is 1 does not. -/
def Obligations.GeneratorStartReloads : Prop :=
  ∀ (s : State) (m v : RegWord),
    let ctl := merge s.regs.pwmCtl m v
    (s.regs.pwmCtl.getLsbD 0 = false → ctl.getLsbD 0 = true →
      memWriteMasked .pwmCtl m v s = .next { s with
        regPort := .writing .pwmCtl m v true
        regs := { s.regs with
          pwmCtl := ctl
          pwmCmpAct := s.regs.pwmCmp.extractLsb' 0 16, pwmCount := s.regs.pwmLoad.extractLsb' 0 16 } }) ∧
    (s.regs.pwmCtl.getLsbD 0 = true ∨ ctl.getLsbD 0 = false →
      memWriteMasked .pwmCtl m v s = .next { s with
        regPort := .writing .pwmCtl m v true, regs := { s.regs with pwmCtl := ctl } })

/-- 42 section 3 (no mid-cycle effect): in a step that is no reload, no start of the generator and no platform reset, the
compare value in use keeps its value, whatever is written to PWM.CMP. -/
def Obligations.NoMidCycleEffect : Prop :=
  ∀ s t : State, step s = .next t → nextMove s ≠ .reload → isPlatformReset (nextMove s) = false →
    ¬ (pwmEnabled s.regs.pwmCtl = false ∧ pwmEnabled t.regs.pwmCtl = true) →
    t.regs.pwmCmpAct = s.regs.pwmCmpAct

/-! ### Serial -/

/-- 43 section 1: the result of every step of TRANSMIT_BYTE: S1 reads the flags and goes on exactly when TXRDY = 1; S2, with
TXRDY = 1, appends the byte to TXLOG, and TXRDY afterwards is PLAT's choice (a free value); STEP then has no meaning (10 R23):
some `k`. -/
def Obligations.TransmitByteSteps : Prop :=
  ∀ (byte : Byte) (s : State),
    (s.stepNo = 0 → exec (.transmitByte byte) s = .next { s with stepNo := 1 }) ∧
    (s.stepNo = 1 → exec (.transmitByte byte) s = .next { s with
      regPort := .reading .uartFlags (some (flagsWord s.regs))
      stepNo := if s.regs.txRdy then 2 else 1 }) ∧
    (s.stepNo = 2 → s.regs.txRdy = true → ∃ (stays : Bool) (k : StepNo), exec (.transmitByte byte) s = .next { s with
      regs := { s.regs with txLog := s.regs.txLog ++ [byte], txRdy := stays }
      regPort := .writing .uartData 0xFF (byte.setWidth 32) true
      draws := s.draws + 1
      stepNo := k
      busy := false
      rsp := some ⟨0, 0⟩ })

/-- 43 section 1: the result of every step of RECEIVE_BYTE: S1 reads the flags and goes on exactly when a byte waits; S2 takes the
oldest byte and responds with it, and STEP then has no meaning (10 R23): some `k`. -/
def Obligations.ReceiveByteSteps : Prop :=
  ∀ s : State,
    (s.stepNo = 0 → exec .receiveByte s = .next { s with stepNo := 1 }) ∧
    (s.stepNo = 1 → exec .receiveByte s = .next { s with
      regPort := .reading .uartFlags (some (flagsWord s.regs))
      stepNo := if s.regs.rxq = [] then 1 else 2 }) ∧
    (∀ (b : Byte) (rest : List Byte), s.stepNo = 2 → s.regs.rxq = b :: rest →
      ∃ k : StepNo, exec .receiveByte s = .next { s with
        regs := { s.regs with rxq := rest }
        regPort := .reading .uartData (some (s.regs.dataHi ++ b))
        stepNo := k
        busy := false
        rsp := some ⟨0, b⟩ })

/-- 43 R176, R182: with its flag at 0 and no move of PLAT, a serial command polls for ever: after any number of steps it is still
at S1, BUSY, with the register space as it was and no response. -/
def Obligations.SerialCommandsPollForever : Prop :=
  ∀ (s : State) (byte : Byte), s.busy = true → s.stepNo = 1 → s.moves = [] →
    (s.cmd = encode (.transmitByte byte) ∧ s.regs.txRdy = false ∨ s.cmd = encode .receiveByte ∧ s.regs.rxq = []) →
    ∀ n : Nat, runs (n + 1) s { s with rsp := none, regPort := .reading .uartFlags (some (flagsWord s.regs)) } ∧
      responses (n + 1) s = []

/-- 43 section 1 (corner case 2): if TXRDY rises after `n` reads of 0, TRANSMIT_BYTE makes `n + 1` flag reads, the last of which
returns 1, and one write, in that order and no other transaction, and the byte is appended to TXLOG. When TXRDY rises is given
by the script of log entry 2. -/
def Obligations.TransmitWaitsThenSends : Prop :=
  ∀ (n : Nat) (byte : Byte) (s : State), s.busy = true → s.stepNo = 1 → s.cmd = encode (.transmitByte byte) →
    s.regs.txRdy = false → s.moves = List.replicate n .seq ++ [.txFree] →
    ∃ (w0 w1 : RegWord) (t : State), w0.getLsbD 0 = false ∧ w1.getLsbD 0 = true ∧
      transactions (n + 3) s = List.replicate n (.reading .uartFlags (some w0)) ++
        [.reading .uartFlags (some w1), .writing .uartData 0xFF (byte.setWidth 32) true] ∧
      runs (n + 3) s t ∧ t.busy = false ∧ t.rsp = some ⟨0, 0⟩ ∧ t.regs.txLog = s.regs.txLog ++ [byte]

/-- 43 section 2: TXRDY falls, and a byte is appended to TXLOG, only by a write of UART.DATA made while TXRDY = 1 (a platform
reset apart): a write by SEQ, a write by another agent, or the write of a TRANSMIT_BYTE that a reset dropped and that landed. The
byte is bits 7:0 of the data written; that it is so for another agent's write whatever its mask is the model's choice (log entry
28). The log grows by at most one byte a step and never loses one. The moves are log entries 2 and 14. -/
def Obligations.TransmitLogGrowsByWrites : Prop :=
  ∀ s t : State, step s = .next t → isPlatformReset (nextMove s) = false →
    (t.regs.txLog = s.regs.txLog ∧ (s.regs.txRdy = true → t.regs.txRdy = true)) ∨
    (s.regs.txRdy = true ∧ ∃ b, t.regs.txLog = s.regs.txLog ++ [b] ∧
      ((nextMove s = .seq ∧ ∃ m v, t.regPort = .writing .uartData m v true ∧ b = byteField v) ∨
       (∃ m v lost, nextMove s = .otherWrite .uartData m v lost ∧ b = byteField v) ∨
       (∃ cmd tmp, nextMove s = .reset true cmd tmp ∧ s.busy = true ∧ s.stepNo = 2 ∧
         decode s.cmd = .command (.transmitByte b))))

/-- 43 section 2: RXQ changes only by an arrival at its end or by a read of UART.DATA at its head (a platform reset apart): a read
by SEQ, which responds with the byte, a read by another agent, or the read of a RECEIVE_BYTE that a reset dropped and that
landed. -/
def Obligations.ReceiveQueueDiscipline : Prop :=
  ∀ s t : State, step s = .next t → isPlatformReset (nextMove s) = false →
    t.regs.rxq = s.regs.rxq ∨
    (∃ b, nextMove s = .rxByte b ∧ t.regs.rxq = s.regs.rxq ++ [b]) ∨
    (∃ b, s.regs.rxq = b :: t.regs.rxq ∧
      ((nextMove s = .seq ∧ t.regPort = .reading .uartData (some (s.regs.dataHi ++ b)) ∧ t.rsp = some ⟨0, b⟩) ∨
       nextMove s = .otherRead .uartData ∨
       (∃ cmd tmp, nextMove s = .reset true cmd tmp ∧ s.busy = true ∧ s.stepNo = 2 ∧
         decode s.cmd = .command .receiveByte)))

/-! ### Rules of the whole machine -/

/-- The invariant holds after reset, on every board that meets 00 R12 and R13. -/
def Obligations.InvariantAtReset : Prop := ∀ b : Board, b.WF → Inv (State.resetOn b)

/-- The invariant is kept by every step of every agent. -/
def Obligations.StepKeepsInvariant : Prop := ∀ s t : State, Inv s → step s = .next t → Inv t

/-- 60 section 6, 43 section 2: under the invariant SEQ never stops but for one reason: step S1 of ATTACH_INTERRUPT on a port whose
clock is off. CONFIGURE_PIN never causes it, UART.DATA is never written while TXRDY = 0 nor read while RXQ is empty. -/
def Obligations.SequencerStopsOnlyUnclocked : Prop :=
  ∀ s : State, Inv s →
    (∃ t, seqMove s = .next t) ∨
    (∃ port pin prio edge p i, s.busy = true ∧ decode s.cmd = .command (.attachInterrupt port pin prio edge) ∧ s.stepNo = 1 ∧
      attachOperands port pin prio = some (p, i) ∧ clockOn s.board s.regs p = false ∧
      seqMove s = .fault (.unclockedAccess p))

/-- 10 R54: every transaction of a command is one its rule names, within the bits its rule names. -/
def Obligations.CommandAccessRights : Prop :=
  ∀ (i : Instr) (s t : State), s.regPort = .idle → exec i s = .next t → accessAllowed i s.board t.regPort

/-- The frame of every command, register by register: what each leaves unchanged at every one of its steps. -/
def Obligations.CommandFrames : Prop :=
  ∀ (i : Instr) (s t : State), exec i s = .next t →
    t.cmd = s.cmd ∧ t.cmdPort = s.cmdPort ∧ t.board = s.board ∧ t.moves = s.moves ∧
    t.regs.flagsHi = s.regs.flagsHi ∧ t.regs.dataHi = s.regs.dataHi ∧
    (∀ q, (t.regs.banks.get q).iev = (s.regs.banks.get q).iev) ∧
    ((∀ port pin dir res, i ≠ .configurePin port pin dir res) →
      t.regs.clkgate = s.regs.clkgate ∧
      ∀ q, (t.regs.banks.get q).dir = (s.regs.banks.get q).dir ∧ (t.regs.banks.get q).pur = (s.regs.banks.get q).pur ∧
        (t.regs.banks.get q).pdr = (s.regs.banks.get q).pdr ∧ (t.regs.banks.get q).den = (s.regs.banks.get q).den) ∧
    ((∀ port pin prio edge, i ≠ .attachInterrupt port pin prio edge) →
      t.regs.icEn = s.regs.icEn ∧ t.regs.icPri = s.regs.icPri ∧
      ∀ q, (t.regs.banks.get q).is = (s.regs.banks.get q).is ∧ (t.regs.banks.get q).ibe = (s.regs.banks.get q).ibe ∧
        (t.regs.banks.get q).pend = (s.regs.banks.get q).pend ∧ (t.regs.banks.get q).im = (s.regs.banks.get q).im) ∧
    (i ≠ .actForward → i ≠ .actReverse → i ≠ .actStop → t.regs.actDrv = s.regs.actDrv) ∧
    ((∀ load cmp, i ≠ .initPwm load cmp) →
      t.regs.pwmCtl = s.regs.pwmCtl ∧ t.regs.pwmLoad = s.regs.pwmLoad ∧ t.regs.pwmCmpAct = s.regs.pwmCmpAct ∧
      t.regs.pwmCount = s.regs.pwmCount ∧ ((∀ cmp, i ≠ .setDuty cmp) → t.regs.pwmCmp = s.regs.pwmCmp)) ∧
    ((∀ cmp, i ≠ .setDuty cmp) → t.tmp = s.tmp) ∧
    ((∀ b, i ≠ .transmitByte b) → t.regs.txRdy = s.regs.txRdy ∧ t.regs.txLog = s.regs.txLog ∧ t.draws = s.draws) ∧
    (i ≠ .receiveByte → t.regs.rxq = s.regs.rxq)

/-- 40 section 3 (frame), 41: CONFIGURE_PIN and ATTACH_INTERRUPT change no bit of another pin, no register of another port, no
clock bit and no controller register of another port. -/
def Obligations.PinCommandsTouchOnePin : Prop :=
  ∀ (i : Instr) (port : BitVec 4) (pin : BitVec 8) (p : Port) (k : Fin 8) (s t : State),
    portSel port = some p → pinSel pin = some k → s.regs.icEn.wf → s.regs.icPri.wf →
    ((∃ dir res, i = .configurePin port pin dir res) ∨ (∃ prio edge, i = .attachInterrupt port pin prio edge)) →
    exec i s = .next t →
    (∀ (q : Port) (n : BankReg) (w w' : RegWord) (j : Nat), bankRead (s.regs.banks.get q) n = some w →
      bankRead (t.regs.banks.get q) n = some w' → (q ≠ p ∨ j ≠ k.val) → w'.getLsbD j = w.getLsbD j) ∧
    (∀ j, j ≠ s.board.clkBit p → t.regs.clkgate.getLsbD j = s.regs.clkgate.getLsbD j) ∧
    (∀ l, l ≠ s.board.irqLine p →
      lineRead t.regs.icEn l = lineRead s.regs.icEn l ∧ lineRead t.regs.icPri l = lineRead s.regs.icPri l)

/-- 60 sections 4 and 6: no command turns a clock off, disarms a pin or disables a line. -/
def Obligations.NoCommandDisarms : Prop :=
  ∀ (i : Instr) (s t : State), s.regs.icEn.wf → exec i s = .next t →
    (∀ p, clockOn s.board s.regs p = true → clockOn t.board t.regs p = true) ∧
    (∀ (p : Port) (k : Fin 8), (s.regs.banks.get p).im.getLsbD k.val = true → (t.regs.banks.get p).im.getLsbD k.val = true) ∧
    (∀ l, (lineRead s.regs.icEn l).getLsbD 0 = true → (lineRead t.regs.icEn l).getLsbD 0 = true)

/-- 60 R204: a pin event sets the one flag, at any time, and changes nothing else; when SEQ moves, a flag falls only in step S3 of
an ATTACH_INTERRUPT for that pin. -/
def Obligations.PendingFlagsSetAndCleared : Prop :=
  (∀ (s : State) (p : Port) (i : Fin 8), nextMove s = .pinEvent p i → ∃ w : RegWord,
    (∀ j : Nat, j < 32 → w.getLsbD j = ((s.regs.banks.get p).pend.getLsbD j || decide (j = i.val))) ∧
    step s = .next { s with
      rsp := none, regPort := waiting s.regPort, moves := s.moves.tail
      regs := { s.regs with banks := s.regs.banks.set p { s.regs.banks.get p with pend := w } } }) ∧
  (∀ (s t : State) (p : Port) (i : Fin 8), nextMove s = .seq → step s = .next t →
    (s.regs.banks.get p).pend.getLsbD i.val = true → (t.regs.banks.get p).pend.getLsbD i.val = false →
    ∃ port pin prio edge, s.busy = true ∧ s.stepNo = 3 ∧ decode s.cmd = .command (.attachInterrupt port pin prio edge) ∧
      attachOperands port pin prio = some (p, i))

/-- 30 R99: in a step of SEQ while a command is in progress, BUSY falls exactly when a response is given, its status is 0, 1 or
2, and data other than 0 comes only from RECEIVE_BYTE. -/
def Obligations.ResponseEndsCommand : Prop :=
  ∀ s t : State, s.busy = true → nextMove s = .seq → step s = .next t →
    (t.busy = false ↔ t.rsp ≠ none) ∧
    (∀ a : Response, t.rsp = some a → a.status ≠ 3 ∧ (a.data ≠ 0 → a.status = 0 ∧ decode s.cmd = .command .receiveByte))

/-- 60 section 1: a rejection leaves no trace: the register space, TMP and the command port are as they were, no transaction was
made, and SEQ is idle. That STEP, without meaning then, stays 0, and the form of the outputs and of the script, are the model's
choice (log entries 7, 8 and 2). -/
def Obligations.RejectionLeavesNoTrace : Prop :=
  ∀ (s t : State) (a : Response), s.busy = true → nextMove s = .seq → step s = .next t → t.rsp = some a → a.status ≠ 0 →
    s.stepNo = 0 ∧ t = { s with
      busy := false, rsp := some ⟨a.status, 0⟩, regPort := .idle, moves := s.moves.tail }

/-- 20 sections 1, 2 and 5: a transaction PLAT does not acknowledge leaves SEQ in its step: after `n` withheld acknowledges BUSY,
CMD, STEP, TMP and the register space are as they were, no response was given, and the request of that step is up. The request
stays up while other agents move, until SEQ moves or a reset drops it, and the transaction SEQ then completes is the one it
requested. How withheld acknowledges are given is the model's choice (log entries 2 and 18). -/
def Obligations.HeldTransactionKeepsStep : Prop :=
  (∀ (n : Nat) (s t : State) (rest : List Move), s.moves = List.replicate n .hold ++ rest → runs n s t →
    t.busy = s.busy ∧ t.cmd = s.cmd ∧ t.stepNo = s.stepNo ∧ t.tmp = s.tmp ∧ t.regs = s.regs ∧ t.cmdPort = s.cmdPort ∧
    t.moves = rest ∧ responses n s = [] ∧ transactions n s = [] ∧ (0 < n → t.regPort = request s)) ∧
  (∀ s t : State, step s = .next t → nextMove s ≠ .seq → nextMove s ≠ .hold →
    (∀ landed cmd tmp, nextMove s ≠ .reset landed cmd tmp) → isPlatformReset (nextMove s) = false →
    t.regPort = waiting s.regPort ∧ request t = request s) ∧
  (∀ s t : State, nextMove s = .seq → step s = .next t → unacknowledged t.regPort = request s)

/-- 00 R9, 70 R236 as 60 R219 classes it: another agent's write while a command is in progress is refused. -/
def Obligations.SecondWriterRefused : Prop :=
  ∀ (s : State) (r : RegId) (m v : RegWord) (lost : PortTable Bank), s.busy = true → nextMove s = .otherWrite r m v lost →
    step s = .refused .secondWriter

/-- 00 section 4: no step of PLAT, and no step of another agent, changes BUSY, CMD, STEP or TMP; only SEQ and reset do. -/
def Obligations.OnlySequencerAndResetMoveSequencer : Prop :=
  ∀ s t : State, step s = .next t → nextMove s ≠ .seq →
    (∀ landed cmd tmp, nextMove s ≠ .reset landed cmd tmp) → isPlatformReset (nextMove s) = false →
    t.busy = s.busy ∧ t.cmd = s.cmd ∧ t.stepNo = s.stepNo ∧ t.tmp = s.tmp ∧ t.rsp = none

/-- 10 R28, 93 U16: the bits outside the named fields never matter to SEQ: whatever value PLAT gives them, the command takes the
same step, to the same STEP, TMP, BUSY and response, or stops for the same reason. -/
def Obligations.OutsideBitsNeverMatter : Prop :=
  ∀ (i : Instr) (s : State) (r : RegId) (v : RegWord),
    let s' := { s with regs := changeOutside s.board r v s.regs }
    match exec i s with
    | .next t => ∃ t', exec i s' = .next t' ∧ t'.stepNo = t.stepNo ∧ t'.tmp = t.tmp ∧ t'.busy = t.busy ∧ t'.rsp = t.rsp
    | .fault f => exec i s' = .fault f
    | .refused x => exec i s' = .refused x

/-- The parameters of 00 R12 and R13 are fixed: no step changes the board. On a board that meets their constraints ADDR gives an
address to exactly the registers that exist, and to no two the same. -/
def Obligations.BoardNeverChanges : Prop :=
  (∀ s t : State, step s = .next t → t.board = s.board) ∧
  (∀ b : Board, b.WF →
    (∀ r, (∃ a, b.address r = some a) ↔ r ∈ registerIds b.nlines) ∧
    (∀ r r' a, b.address r = some a → b.address r' = some a → r = r'))

/-! ### Reset during a run -/

/-- 70 section 1: reset of WCS-RM where no transaction lands, because the dropped one did not take effect, or SEQ is idle, or the
word in CMD is illegal: idle at STEP 0, no response, no request, no transaction; the register space is as it was; CMD and TMP are
any value. The form of the move and of the outputs is the model's choice (log entries 2, 8 and 14). -/
def Obligations.SequencerResetKeepsRegisters : Prop :=
  ∀ (s : State) (landed : Bool) (cmd : CmdWord) (tmp : PwmWord), nextMove s = .reset landed cmd tmp →
    (landed = false ∨ s.busy = false ∨ (s.stepNo = 0 ∧ ∃ e, decode s.cmd = .illegal e)) →
    step s = .next { s with
      busy := false, stepNo := 0, cmd := cmd, tmp := tmp, rsp := none, regPort := .idle, moves := s.moves.tail }

/-- 70 R222: reset in the middle of a command abandons it; the dropped transaction may have taken effect: then the register space
is that after the step, and there is still no response. Where that transaction is a fault the reset step is the same fault (log
entry 14). -/
def Obligations.ResetMayLandTransaction : Prop :=
  (∀ (s t : State) (i : Instr) (cmd : CmdWord) (tmp : PwmWord), nextMove s = .reset true cmd tmp → s.busy = true →
    decode s.cmd = .command i → exec i s.openStep = .next t →
    step s = .next { s with
      busy := false, stepNo := 0, cmd := cmd, tmp := tmp, rsp := none, regPort := .idle, moves := s.moves.tail
      regs := t.regs, draws := t.draws }) ∧
  (∀ (s : State) (f : Fault) (i : Instr) (cmd : CmdWord) (tmp : PwmWord), nextMove s = .reset true cmd tmp → s.busy = true →
    decode s.cmd = .command i → exec i s.openStep = .fault f → step s = .fault f)

/-- 70 R225 and 10 section 9: after a platform reset the drive lines are deasserted and TXLOG is empty, SEQ is idle at STEP 0, no
response is given, and every other register holds what the reset left there: the controller's registers at every line that
exists, and bits 31:2 of ACT.DRV, included. The form of the move is the model's choice (log entries 2 and 15). -/
def Obligations.PlatformResetStopsActuator : Prop :=
  ∀ (s : State) (contents : RegSpace) (cmd : CmdWord) (tmp : PwmWord), nextMove s = .platformReset contents cmd tmp →
    ∃ t, step s = .next t ∧ t.busy = false ∧ t.stepNo = 0 ∧ t.rsp = none ∧ t.regPort = .idle ∧
      driveLines t.regs = 0b00 ∧ actuator t.regs = .stopped ∧ t.regs.txLog = [] ∧
      t.regs.icEn.wf ∧ t.regs.icPri.wf ∧
      (∀ l, l < s.board.nlines →
        lineRead t.regs.icEn l = lineRead contents.icEn l ∧ lineRead t.regs.icPri l = lineRead contents.icPri l) ∧
      (∀ j, 2 ≤ j → t.regs.actDrv.getLsbD j = contents.actDrv.getLsbD j) ∧
      t.regs = { contents with
        icEn := t.regs.icEn, icPri := t.regs.icPri, actDrv := t.regs.actDrv, txLog := [] }
end

