-- ==== Sys2Proof/Laws/State.lean ====
section
/-! SUPPORT. One lemma per field per update of the state, the bank table and the register space. -/

namespace Sys2Proof

/-! ### One thing per port -/

theorem Port.mem_all (p : Port) : p ∈ Port.all := by cases p <;> decide

@[simp] theorem PortTable.get_const {α : Type} (x : α) (p : Port) : (PortTable.const x).get p = x := by cases p <;> rfl

@[simp] theorem PortTable.get_set_self {α : Type} (t : PortTable α) (p : Port) (x : α) : (t.set p x).get p = x := by
  cases p <;> rfl

theorem PortTable.get_set_of_ne {α : Type} (t : PortTable α) {p q : Port} (h : q ≠ p) (x : α) :
    (t.set p x).get q = t.get q := by
  cases p <;> cases q <;> first | rfl | exact absurd rfl h

@[simp] theorem PortTable.set_get_self {α : Type} (t : PortTable α) (p : Port) : t.set p (t.get p) = t := by
  cases p <;> rfl

@[simp] theorem PortTable.set_set {α : Type} (t : PortTable α) (p : Port) (x y : α) : (t.set p x).set p y = t.set p y := by
  cases p <;> rfl

/-! ### The board -/

theorem Board.clkBit_lt (b : Board) (p : Port) : b.clkBit p < 32 := (b.clk.get p).isLt

theorem Board.WF.clk_inj {b : Board} (h : b.WF) {p q : Port} (e : b.clkBit p = b.clkBit q) : p = q :=
  h.1 p p.mem_all q q.mem_all e

theorem Board.WF.irq_inj {b : Board} (h : b.WF) {p q : Port} (e : b.irqLine p = b.irqLine q) : p = q :=
  h.2.1 p p.mem_all q q.mem_all e

theorem Board.WF.irq_lt {b : Board} (h : b.WF) (p : Port) : b.irqLine p < b.nlines := h.2.2.1 p p.mem_all

/-- CFG_REF meets the constraints. -/
theorem Board.reference_wf : Board.reference.WF :=
  ⟨by decide, by decide, by decide, by decide, List.zipIdx_map_fst _ _, by
    rw [show Board.reference.addr.map (fun x => x.2) = List.range' 0 _ from List.zipIdx_map_snd _ _]
    exact List.nodup_range'⟩

namespace Machine

/-! ### The register-space port -/

@[simp] theorem waiting_idle : waiting .idle = .idle := rfl
@[simp] theorem waiting_reading (r : RegId) (w : RegWord) : waiting (.reading r (some w)) = .idle := rfl
@[simp] theorem waiting_writing (r : RegId) (m v : RegWord) : waiting (.writing r m v true) = .idle := rfl

@[simp] theorem waiting_waiting (p : RegPort) : waiting (waiting p) = waiting p := by
  rcases p with _ | ⟨_, _ | _⟩ | ⟨_, _, _, _ | _⟩ <;> rfl

@[simp] theorem waiting_unacknowledged (p : RegPort) : waiting (unacknowledged p) = unacknowledged p := by
  rcases p with _ | ⟨_, _ | _⟩ | ⟨_, _, _, _ | _⟩ <;> rfl

/-! ### The updates of the state -/

@[simp] theorem State.goto_busy (s : State) (k : StepNo) : (s.goto k).busy = s.busy := rfl
@[simp] theorem State.goto_cmd (s : State) (k : StepNo) : (s.goto k).cmd = s.cmd := rfl
@[simp] theorem State.goto_stepNo (s : State) (k : StepNo) : (s.goto k).stepNo = k := rfl
@[simp] theorem State.goto_tmp (s : State) (k : StepNo) : (s.goto k).tmp = s.tmp := rfl
@[simp] theorem State.goto_cmdPort (s : State) (k : StepNo) : (s.goto k).cmdPort = s.cmdPort := rfl
@[simp] theorem State.goto_rsp (s : State) (k : StepNo) : (s.goto k).rsp = s.rsp := rfl
@[simp] theorem State.goto_regPort (s : State) (k : StepNo) : (s.goto k).regPort = s.regPort := rfl
@[simp] theorem State.goto_regs (s : State) (k : StepNo) : (s.goto k).regs = s.regs := rfl
@[simp] theorem State.goto_board (s : State) (k : StepNo) : (s.goto k).board = s.board := rfl
@[simp] theorem State.goto_draws (s : State) (k : StepNo) : (s.goto k).draws = s.draws := rfl
@[simp] theorem State.goto_moves (s : State) (k : StepNo) : (s.goto k).moves = s.moves := rfl

@[simp] theorem State.respond_busy (s : State) (c : StatusCode) (d : Byte) : (s.respond c d).busy = false := rfl
@[simp] theorem State.respond_cmd (s : State) (c : StatusCode) (d : Byte) : (s.respond c d).cmd = s.cmd := rfl
@[simp] theorem State.respond_stepNo (s : State) (c : StatusCode) (d : Byte) : (s.respond c d).stepNo = s.stepNo := rfl
@[simp] theorem State.respond_tmp (s : State) (c : StatusCode) (d : Byte) : (s.respond c d).tmp = s.tmp := rfl
@[simp] theorem State.respond_cmdPort (s : State) (c : StatusCode) (d : Byte) : (s.respond c d).cmdPort = s.cmdPort := rfl
@[simp] theorem State.respond_rsp (s : State) (c : StatusCode) (d : Byte) : (s.respond c d).rsp = some ⟨c, d⟩ := rfl
@[simp] theorem State.respond_regPort (s : State) (c : StatusCode) (d : Byte) : (s.respond c d).regPort = s.regPort := rfl
@[simp] theorem State.respond_regs (s : State) (c : StatusCode) (d : Byte) : (s.respond c d).regs = s.regs := rfl
@[simp] theorem State.respond_board (s : State) (c : StatusCode) (d : Byte) : (s.respond c d).board = s.board := rfl
@[simp] theorem State.respond_draws (s : State) (c : StatusCode) (d : Byte) : (s.respond c d).draws = s.draws := rfl
@[simp] theorem State.respond_moves (s : State) (c : StatusCode) (d : Byte) : (s.respond c d).moves = s.moves := rfl

@[simp] theorem State.withTmp_busy (s : State) (v : PwmWord) : (s.withTmp v).busy = s.busy := rfl
@[simp] theorem State.withTmp_cmd (s : State) (v : PwmWord) : (s.withTmp v).cmd = s.cmd := rfl
@[simp] theorem State.withTmp_stepNo (s : State) (v : PwmWord) : (s.withTmp v).stepNo = s.stepNo := rfl
@[simp] theorem State.withTmp_tmp (s : State) (v : PwmWord) : (s.withTmp v).tmp = v := rfl
@[simp] theorem State.withTmp_cmdPort (s : State) (v : PwmWord) : (s.withTmp v).cmdPort = s.cmdPort := rfl
@[simp] theorem State.withTmp_rsp (s : State) (v : PwmWord) : (s.withTmp v).rsp = s.rsp := rfl
@[simp] theorem State.withTmp_regPort (s : State) (v : PwmWord) : (s.withTmp v).regPort = s.regPort := rfl
@[simp] theorem State.withTmp_regs (s : State) (v : PwmWord) : (s.withTmp v).regs = s.regs := rfl
@[simp] theorem State.withTmp_board (s : State) (v : PwmWord) : (s.withTmp v).board = s.board := rfl
@[simp] theorem State.withTmp_draws (s : State) (v : PwmWord) : (s.withTmp v).draws = s.draws := rfl
@[simp] theorem State.withTmp_moves (s : State) (v : PwmWord) : (s.withTmp v).moves = s.moves := rfl

@[simp] theorem State.withRegs_busy (s : State) (g : RegSpace) : (s.withRegs g).busy = s.busy := rfl
@[simp] theorem State.withRegs_cmd (s : State) (g : RegSpace) : (s.withRegs g).cmd = s.cmd := rfl
@[simp] theorem State.withRegs_stepNo (s : State) (g : RegSpace) : (s.withRegs g).stepNo = s.stepNo := rfl
@[simp] theorem State.withRegs_tmp (s : State) (g : RegSpace) : (s.withRegs g).tmp = s.tmp := rfl
@[simp] theorem State.withRegs_cmdPort (s : State) (g : RegSpace) : (s.withRegs g).cmdPort = s.cmdPort := rfl
@[simp] theorem State.withRegs_rsp (s : State) (g : RegSpace) : (s.withRegs g).rsp = s.rsp := rfl
@[simp] theorem State.withRegs_regPort (s : State) (g : RegSpace) : (s.withRegs g).regPort = s.regPort := rfl
@[simp] theorem State.withRegs_regs (s : State) (g : RegSpace) : (s.withRegs g).regs = g := rfl
@[simp] theorem State.withRegs_board (s : State) (g : RegSpace) : (s.withRegs g).board = s.board := rfl
@[simp] theorem State.withRegs_draws (s : State) (g : RegSpace) : (s.withRegs g).draws = s.draws := rfl
@[simp] theorem State.withRegs_moves (s : State) (g : RegSpace) : (s.withRegs g).moves = s.moves := rfl

@[simp] theorem State.accept_busy (s : State) (w : CmdWord) : (s.accept w).busy = true := rfl
@[simp] theorem State.accept_cmd (s : State) (w : CmdWord) : (s.accept w).cmd = w := rfl
@[simp] theorem State.accept_stepNo (s : State) (w : CmdWord) : (s.accept w).stepNo = 0 := rfl
@[simp] theorem State.accept_tmp (s : State) (w : CmdWord) : (s.accept w).tmp = s.tmp := rfl
@[simp] theorem State.accept_cmdPort (s : State) (w : CmdWord) : (s.accept w).cmdPort = none := rfl
@[simp] theorem State.accept_rsp (s : State) (w : CmdWord) : (s.accept w).rsp = s.rsp := rfl
@[simp] theorem State.accept_regPort (s : State) (w : CmdWord) : (s.accept w).regPort = s.regPort := rfl
@[simp] theorem State.accept_regs (s : State) (w : CmdWord) : (s.accept w).regs = s.regs := rfl
@[simp] theorem State.accept_board (s : State) (w : CmdWord) : (s.accept w).board = s.board := rfl
@[simp] theorem State.accept_draws (s : State) (w : CmdWord) : (s.accept w).draws = s.draws := rfl
@[simp] theorem State.accept_moves (s : State) (w : CmdWord) : (s.accept w).moves = s.moves := rfl

@[simp] theorem State.openStep_busy (s : State) : (s.openStep).busy = s.busy := rfl
@[simp] theorem State.openStep_cmd (s : State) : (s.openStep).cmd = s.cmd := rfl
@[simp] theorem State.openStep_stepNo (s : State) : (s.openStep).stepNo = s.stepNo := rfl
@[simp] theorem State.openStep_tmp (s : State) : (s.openStep).tmp = s.tmp := rfl
@[simp] theorem State.openStep_cmdPort (s : State) : (s.openStep).cmdPort = s.cmdPort := rfl
@[simp] theorem State.openStep_rsp (s : State) : (s.openStep).rsp = none := rfl
@[simp] theorem State.openStep_regPort (s : State) :
    (s.openStep).regPort = if nextMove s = .seq then .idle else waiting s.regPort := rfl

/-- What a step of SEQ starts from: nothing shown at the ports. -/
theorem openStep_of_seq {s : State} (h : nextMove s = .seq) :
    s.openStep = { s with rsp := none, regPort := .idle, moves := s.moves.tail } := by
  simp only [State.openStep, h, if_true]

/-- What a step of any other agent starts from: a request that waits stays up (20 R62). -/
theorem openStep_of_other {s : State} (h : nextMove s ≠ .seq) :
    s.openStep = { s with rsp := none, regPort := waiting s.regPort, moves := s.moves.tail } := by
  simp only [State.openStep, if_neg h]

@[simp] theorem State.openStep_regs (s : State) : (s.openStep).regs = s.regs := rfl
@[simp] theorem State.openStep_board (s : State) : (s.openStep).board = s.board := rfl
@[simp] theorem State.openStep_draws (s : State) : (s.openStep).draws = s.draws := rfl
@[simp] theorem State.openStep_moves (s : State) : (s.openStep).moves = s.moves.tail := rfl

@[simp] theorem State.resetSeq_busy (s : State) (w : CmdWord) (v : PwmWord) : (s.resetSeq w v).busy = false := rfl
@[simp] theorem State.resetSeq_cmd (s : State) (w : CmdWord) (v : PwmWord) : (s.resetSeq w v).cmd = w := rfl
@[simp] theorem State.resetSeq_stepNo (s : State) (w : CmdWord) (v : PwmWord) : (s.resetSeq w v).stepNo = 0 := rfl
@[simp] theorem State.resetSeq_tmp (s : State) (w : CmdWord) (v : PwmWord) : (s.resetSeq w v).tmp = v := rfl
@[simp] theorem State.resetSeq_cmdPort (s : State) (w : CmdWord) (v : PwmWord) : (s.resetSeq w v).cmdPort = s.cmdPort := rfl
@[simp] theorem State.resetSeq_rsp (s : State) (w : CmdWord) (v : PwmWord) : (s.resetSeq w v).rsp = none := rfl
@[simp] theorem State.resetSeq_regPort (s : State) (w : CmdWord) (v : PwmWord) : (s.resetSeq w v).regPort = .idle := rfl
@[simp] theorem State.resetSeq_regs (s : State) (w : CmdWord) (v : PwmWord) : (s.resetSeq w v).regs = s.regs := rfl
@[simp] theorem State.resetSeq_board (s : State) (w : CmdWord) (v : PwmWord) : (s.resetSeq w v).board = s.board := rfl
@[simp] theorem State.resetSeq_draws (s : State) (w : CmdWord) (v : PwmWord) : (s.resetSeq w v).draws = s.draws := rfl
@[simp] theorem State.resetSeq_moves (s : State) (w : CmdWord) (v : PwmWord) : (s.resetSeq w v).moves = s.moves := rfl

@[simp] theorem State.wrote_busy (s : State) (r : RegId) (m v : RegWord) (g : RegSpace) : (s.wrote r m v g).busy = s.busy := rfl
@[simp] theorem State.wrote_cmd (s : State) (r : RegId) (m v : RegWord) (g : RegSpace) : (s.wrote r m v g).cmd = s.cmd := rfl
@[simp] theorem State.wrote_stepNo (s : State) (r : RegId) (m v : RegWord) (g : RegSpace) : (s.wrote r m v g).stepNo = s.stepNo := rfl
@[simp] theorem State.wrote_tmp (s : State) (r : RegId) (m v : RegWord) (g : RegSpace) : (s.wrote r m v g).tmp = s.tmp := rfl
@[simp] theorem State.wrote_cmdPort (s : State) (r : RegId) (m v : RegWord) (g : RegSpace) : (s.wrote r m v g).cmdPort = s.cmdPort := rfl
@[simp] theorem State.wrote_rsp (s : State) (r : RegId) (m v : RegWord) (g : RegSpace) : (s.wrote r m v g).rsp = s.rsp := rfl
@[simp] theorem State.wrote_regPort (s : State) (r : RegId) (m v : RegWord) (g : RegSpace) : (s.wrote r m v g).regPort = .writing r m v true := rfl
@[simp] theorem State.wrote_regs (s : State) (r : RegId) (m v : RegWord) (g : RegSpace) : (s.wrote r m v g).regs = g := rfl
@[simp] theorem State.wrote_board (s : State) (r : RegId) (m v : RegWord) (g : RegSpace) : (s.wrote r m v g).board = s.board := rfl
@[simp] theorem State.wrote_draws (s : State) (r : RegId) (m v : RegWord) (g : RegSpace) : (s.wrote r m v g).draws = drawsAfter r s.draws := rfl
@[simp] theorem State.wrote_moves (s : State) (r : RegId) (m v : RegWord) (g : RegSpace) : (s.wrote r m v g).moves = s.moves := rfl

@[simp] theorem State.didRead_busy (s : State) (r : RegId) (w : RegWord) (g : RegSpace) : (s.didRead r w g).busy = s.busy := rfl
@[simp] theorem State.didRead_cmd (s : State) (r : RegId) (w : RegWord) (g : RegSpace) : (s.didRead r w g).cmd = s.cmd := rfl
@[simp] theorem State.didRead_stepNo (s : State) (r : RegId) (w : RegWord) (g : RegSpace) : (s.didRead r w g).stepNo = s.stepNo := rfl
@[simp] theorem State.didRead_tmp (s : State) (r : RegId) (w : RegWord) (g : RegSpace) : (s.didRead r w g).tmp = s.tmp := rfl
@[simp] theorem State.didRead_cmdPort (s : State) (r : RegId) (w : RegWord) (g : RegSpace) : (s.didRead r w g).cmdPort = s.cmdPort := rfl
@[simp] theorem State.didRead_rsp (s : State) (r : RegId) (w : RegWord) (g : RegSpace) : (s.didRead r w g).rsp = s.rsp := rfl
@[simp] theorem State.didRead_regPort (s : State) (r : RegId) (w : RegWord) (g : RegSpace) : (s.didRead r w g).regPort = .reading r (some w) := rfl
@[simp] theorem State.didRead_regs (s : State) (r : RegId) (w : RegWord) (g : RegSpace) : (s.didRead r w g).regs = g := rfl
@[simp] theorem State.didRead_board (s : State) (r : RegId) (w : RegWord) (g : RegSpace) : (s.didRead r w g).board = s.board := rfl
@[simp] theorem State.didRead_draws (s : State) (r : RegId) (w : RegWord) (g : RegSpace) : (s.didRead r w g).draws = s.draws := rfl
@[simp] theorem State.didRead_moves (s : State) (r : RegId) (w : RegWord) (g : RegSpace) : (s.didRead r w g).moves = s.moves := rfl

/-! ### A new bank in the register space -/

@[simp] theorem setBank_banks (g : RegSpace) (p : Port) (b : Bank) : (setBank g p b).banks = g.banks.set p b := rfl
@[simp] theorem setBank_clkgate (g : RegSpace) (p : Port) (b : Bank) : (setBank g p b).clkgate = g.clkgate := rfl
@[simp] theorem setBank_icEn (g : RegSpace) (p : Port) (b : Bank) : (setBank g p b).icEn = g.icEn := rfl
@[simp] theorem setBank_icPri (g : RegSpace) (p : Port) (b : Bank) : (setBank g p b).icPri = g.icPri := rfl
@[simp] theorem setBank_actDrv (g : RegSpace) (p : Port) (b : Bank) : (setBank g p b).actDrv = g.actDrv := rfl
@[simp] theorem setBank_pwmCtl (g : RegSpace) (p : Port) (b : Bank) : (setBank g p b).pwmCtl = g.pwmCtl := rfl
@[simp] theorem setBank_pwmLoad (g : RegSpace) (p : Port) (b : Bank) : (setBank g p b).pwmLoad = g.pwmLoad := rfl
@[simp] theorem setBank_pwmCmp (g : RegSpace) (p : Port) (b : Bank) : (setBank g p b).pwmCmp = g.pwmCmp := rfl
@[simp] theorem setBank_pwmCmpAct (g : RegSpace) (p : Port) (b : Bank) : (setBank g p b).pwmCmpAct = g.pwmCmpAct := rfl
@[simp] theorem setBank_pwmCount (g : RegSpace) (p : Port) (b : Bank) : (setBank g p b).pwmCount = g.pwmCount := rfl
@[simp] theorem setBank_txRdy (g : RegSpace) (p : Port) (b : Bank) : (setBank g p b).txRdy = g.txRdy := rfl
@[simp] theorem setBank_flagsHi (g : RegSpace) (p : Port) (b : Bank) : (setBank g p b).flagsHi = g.flagsHi := rfl
@[simp] theorem setBank_dataHi (g : RegSpace) (p : Port) (b : Bank) : (setBank g p b).dataHi = g.dataHi := rfl
@[simp] theorem setBank_rxq (g : RegSpace) (p : Port) (b : Bank) : (setBank g p b).rxq = g.rxq := rfl
@[simp] theorem setBank_txLog (g : RegSpace) (p : Port) (b : Bank) : (setBank g p b).txLog = g.txLog := rfl

/-! ### The state after acceptance -/

@[simp] theorem withFetchWord_busy (s : State) (n w : Nat) : (s.withFetchWord n w).busy = true := rfl
@[simp] theorem withFetchWord_stepNo (s : State) (n w : Nat) : (s.withFetchWord n w).stepNo = 0 := rfl
@[simp] theorem withFetchWord_cmd (s : State) (n w : Nat) : (s.withFetchWord n w).cmd = tableWord n w := rfl
@[simp] theorem withFetchWord_regs (s : State) (n w : Nat) : (s.withFetchWord n w).regs = s.regs := rfl
@[simp] theorem withFetchWord_moves (s : State) (n w : Nat) : (s.withFetchWord n w).moves = .seq :: s.moves := rfl

end Machine

end Sys2Proof
end

