-- ==== Sys2Proof/Laws/Registers.lean ====
section
/-! SUPPORT. Masked writes bit by bit, and the controller's registers by line: read after write, and the canonical form. -/

namespace Sys2Proof.Machine

/-! ### Masked writes -/

theorem merge_getLsbD (old m v : RegWord) (j : Nat) :
    (merge old m v).getLsbD j = if m.getLsbD j then v.getLsbD j else old.getLsbD j := by
  by_cases h : j < 32
  · cases hm : m.getLsbD j <;> simp [merge, hm, h, -BitVec.getLsbD_eq_getElem]
  · have hj : 32 ≤ j := Nat.le_of_not_lt h
    simp [merge, BitVec.getLsbD_of_ge _ j hj]

theorem oneHot_getLsbD (i j : Nat) : (oneHot i).getLsbD j = (decide (j = i) && decide (j < 32)) := by
  simp only [oneHot, BitVec.getLsbD_shiftLeft, BitVec.getLsbD_one]
  by_cases h : j = i
  · subst h; simp
  · by_cases h2 : j < i
    · simp [h, h2]
    · have : j - i ≠ 0 := by omega
      simp [h, this]

theorem bitAt_getLsbD (v : Bool) (i j : Nat) : (bitAt v i).getLsbD j = (v && decide (j = i) && decide (j < 32)) := by
  cases v <;> simp [bitAt, oneHot_getLsbD]

/-- Setting a bit sets it and leaves the others. -/
theorem merge_set_getLsbD (w : RegWord) (i j : Nat) (h : j < 32) :
    (merge w (oneHot i) (oneHot i)).getLsbD j = if j = i then true else w.getLsbD j := by
  simp only [merge_getLsbD, oneHot_getLsbD]; rcases eq_or_ne j i with rfl | e <;> simp [*]

/-- Clearing a bit clears it and leaves the others. -/
theorem merge_clear_getLsbD (w : RegWord) (i j : Nat) (h : j < 32) :
    (merge w (oneHot i) 0).getLsbD j = if j = i then false else w.getLsbD j := by
  simp only [merge_getLsbD, oneHot_getLsbD]; rcases eq_or_ne j i with rfl | e <;> simp [*]

/-- Writing one bit writes it and leaves the others. -/
theorem merge_put_getLsbD (w : RegWord) (i j : Nat) (v : Bool) (h : j < 32) :
    (merge w (oneHot i) (bitAt v i)).getLsbD j = if j = i then v else w.getLsbD j := by
  simp only [merge_getLsbD, oneHot_getLsbD, bitAt_getLsbD]; rcases eq_or_ne j i with rfl | e <;> simp [*]

/-- A masked write with a mask that is 0 on a slice leaves the slice. -/
theorem merge_slice_kept (w m v : RegWord) (lo n : Nat) (h : ∀ j, j < n → m.getLsbD (lo + j) = false) :
    (merge w m v).extractLsb' lo n = w.extractLsb' lo n := by
  apply BitVec.eq_of_getLsbD_eq
  intro j hj
  simp only [BitVec.getLsbD_extractLsb', merge_getLsbD, hj, h j hj]; simp

/-- A masked write with a mask that is 1 on a slice writes the slice. -/
theorem merge_slice_written (w m v : RegWord) (lo n : Nat) (h : ∀ j, j < n → m.getLsbD (lo + j) = true) :
    (merge w m v).extractLsb' lo n = v.extractLsb' lo n := by
  apply BitVec.eq_of_getLsbD_eq
  intro j hj
  simp only [BitVec.getLsbD_extractLsb', merge_getLsbD, hj, h j hj]; simp

theorem clearPending_getLsbD (w m v : RegWord) (j : Nat) :
    (clearPending w m v).getLsbD j = (w.getLsbD j && !(m.getLsbD j && v.getLsbD j)) := by
  by_cases h : j < 32
  · simp [clearPending, h, Bool.and_comm, -BitVec.getLsbD_eq_getElem]
  · have hj : 32 ≤ j := Nat.le_of_not_lt h
    simp [clearPending, BitVec.getLsbD_of_ge _ j hj]

theorem setPending_getLsbD (w : RegWord) (i j : Nat) (h : j < 32) :
    (setPending w i).getLsbD j = (w.getLsbD j || decide (j = i)) := by
  simp only [setPending, BitVec.getLsbD_or, oneHot_getLsbD, h, decide_true, Bool.and_true]

/-! ### The controller's registers by line -/

theorem LineFile.wf_cons {c : Nat × RegWord} {f : LineFile} :
    LineFile.wf (c :: f) ↔ (∀ d ∈ f, c.1 < d.1) ∧ c.2 ≠ 0 ∧ LineFile.wf f := by
  simp only [LineFile.wf, List.pairwise_cons, List.mem_cons, forall_eq_or_imp]; tauto

theorem lineRead_of_above {f : LineFile} {l : Nat} (h : ∀ c ∈ f, l < c.1) : lineRead f l = 0 := by
  induction f with
  | nil => rfl
  | cons c rest ih =>
    have hc := h c (by simp)
    rw [lineRead, if_neg (by omega), ih fun d hd => h d (by simp [hd])]

/-- Every entry of a line file after a write was there before or is the new one. -/
theorem mem_lineWrite {f : LineFile} {l : Nat} {v : RegWord} {c : Nat × RegWord} (h : c ∈ lineWrite f l v) :
    c ∈ f ∨ (c = (l, v) ∧ v ≠ 0) := by
  induction f with
  | nil =>
    simp only [lineWrite] at h
    split at h <;> simp_all
  | cons d rest ih =>
    simp only [lineWrite] at h
    split_ifs at h <;> simp_all
    · tauto
    · tauto
    · rcases h with rfl | h
      · exact .inl (.inl rfl)
      · rcases ih h with h | h <;> tauto

/-- A write keeps the canonical form. -/
theorem lineWrite_wf {f : LineFile} (hf : f.wf) (l : Nat) (v : RegWord) : (lineWrite f l v).wf := by
  induction f with
  | nil =>
    rw [lineWrite]; split
    · exact hf
    · rename_i h; exact LineFile.wf_cons.mpr ⟨by simp, h, hf⟩
  | cons c rest ih =>
    obtain ⟨hlt, hne, hr⟩ := LineFile.wf_cons.mp hf
    simp only [lineWrite]
    split_ifs with h1 h2 h3 h4
    · exact hf
    · refine LineFile.wf_cons.mpr ⟨fun d hd => ?_, h2, hf⟩
      rcases List.mem_cons.mp hd with rfl | hd
      · exact h1
      · exact h1.trans (hlt d hd)
    · exact hr
    · exact LineFile.wf_cons.mpr ⟨fun d hd => h3 ▸ hlt d hd, h4, hr⟩
    · refine LineFile.wf_cons.mpr ⟨fun d hd => ?_, hne, ih hr⟩
      rcases mem_lineWrite hd with hd | ⟨rfl, -⟩
      · exact hlt d hd
      · simp only; omega

/-- A write at an existing line keeps the lines below the bound. -/
theorem lineWrite_below {n : Nat} {f : LineFile} (hf : LineFile.below n f) {l : Nat} (hl : l < n) (v : RegWord) :
    LineFile.below n (lineWrite f l v) := by
  intro c hc
  rcases mem_lineWrite hc with h | ⟨rfl, -⟩
  · exact hf c h
  · exact hl

/-- A canonical list from any list of pairs. -/
theorem lineCanonical_wf (n : Nat) (f : LineFile) : (lineCanonical n f).wf := by
  induction f with
  | nil => simp [lineCanonical, LineFile.wf]
  | cons c rest ih =>
    rw [lineCanonical]; split
    · exact lineWrite_wf ih _ _
    · exact ih

theorem lineCanonical_below (n : Nat) (f : LineFile) : LineFile.below n (lineCanonical n f) := by
  induction f with
  | nil => simp [lineCanonical, LineFile.below]
  | cons c rest ih =>
    rw [lineCanonical]; split
    · rename_i h; exact lineWrite_below ih h _
    · exact ih

theorem reset_lines_wf (b : Board) : (State.resetOn b).regs.icEn.wf ∧ (State.resetOn b).regs.icPri.wf := by
  simp [State.resetOn, RegSpace.reset, LineFile.wf]

end Sys2Proof.Machine
end

