-- ==== Sys2Proof/Laws/Ops.lean ====
section
/-! SUPPORT. What each shared operation can do, said once. -/

namespace Sys2Proof.Machine

/-! ### Outcomes -/

@[simp] theorem bindNext_next {α β : Type} (a : α) (k : α → Outcome β) : bindNext (.next a) k = k a := rfl
@[simp] theorem bindNext_fault {α β : Type} (f : Fault) (k : α → Outcome β) : bindNext (.fault f) k = .fault f := rfl
@[simp] theorem bindNext_refused {α β : Type} (r : Refusal) (k : α → Outcome β) : bindNext (.refused r) k = .refused r := rfl

theorem bindNext_eq_next {α β : Type} {o : Outcome α} {k : α → Outcome β} {b : β} :
    bindNext o k = .next b ↔ ∃ a, o = .next a ∧ k a = .next b := by
  cases o <;> simp [bindNext]

@[simp] theorem thenGoto_next (k : StepNo) (s : State) : thenGoto k (.next s) = .next (s.goto k) := rfl
@[simp] theorem thenGoto_fault (k : StepNo) (f : Fault) : thenGoto k (.fault f) = .fault f := rfl
@[simp] theorem thenGoto_refused (k : StepNo) (r : Refusal) : thenGoto k (.refused r) = .refused r := rfl
@[simp] theorem thenDone_next (s : State) : thenDone (.next s) = .next (s.respond statusOk 0) := rfl
@[simp] theorem thenDone_fault (f : Fault) : thenDone (.fault f) = .fault f := rfl
@[simp] theorem thenDone_refused (r : Refusal) : thenDone (.refused r) = .refused r := rfl

theorem thenGoto_eq_next {k : StepNo} {o : Outcome State} {t : State} :
    thenGoto k o = .next t ↔ ∃ a, o = .next a ∧ t = a.goto k := by
  cases o <;> simp [eq_comm]

theorem thenDone_eq_next {o : Outcome State} {t : State} :
    thenDone o = .next t ↔ ∃ a, o = .next a ∧ t = a.respond statusOk 0 := by
  cases o <;> simp [eq_comm]

/-! ### Where an access faults -/

@[simp] theorem accessFault_sysClkgate (b : Board) (g : RegSpace) : accessFault b g .sysClkgate = none := rfl
@[simp] theorem accessFault_actDrv (b : Board) (g : RegSpace) : accessFault b g .actDrv = none := rfl
@[simp] theorem accessFault_pwmCtl (b : Board) (g : RegSpace) : accessFault b g .pwmCtl = none := rfl
@[simp] theorem accessFault_pwmLoad (b : Board) (g : RegSpace) : accessFault b g .pwmLoad = none := rfl
@[simp] theorem accessFault_pwmCmp (b : Board) (g : RegSpace) : accessFault b g .pwmCmp = none := rfl
@[simp] theorem accessFault_uartFlags (b : Board) (g : RegSpace) : accessFault b g .uartFlags = none := rfl
@[simp] theorem accessFault_uartData (b : Board) (g : RegSpace) : accessFault b g .uartData = none := rfl

theorem accessFault_gpio (b : Board) (g : RegSpace) (p : Port) (k : BankReg) :
    accessFault b g (.gpio p k) = if clockOn b g p then none else some (.unclockedAccess p) := rfl

theorem accessFault_icEn (b : Board) (g : RegSpace) (l : Nat) :
    accessFault b g (.icEn l) = if l < b.nlines then none else some (.noSuchRegister l) := rfl

theorem accessFault_icPri (b : Board) (g : RegSpace) (l : Nat) :
    accessFault b g (.icPri l) = if l < b.nlines then none else some (.noSuchRegister l) := rfl

/-! ### Transactions -/

/-- Everything a masked write can do: the access is allowed, the register space changes as `storeReg` says, the port shows the
write. -/
theorem memWriteMasked_eq_next {r : RegId} {m v : RegWord} {s t : State} :
    memWriteMasked r m v s = .next t ↔
      accessFault s.board s.regs r = none ∧
      ∃ g, storeReg (Config.txStaysReady s.draws) r m v s.regs = .next g ∧ t = s.wrote r m v g := by
  unfold memWriteMasked
  cases accessFault s.board s.regs r with
  | some f => simp
  | none => simp only [bindNext_eq_next, Host.Outcome.next.injEq, true_and, eq_comm (b := t)]

/-- A masked write whose access is allowed and whose store has an effect. -/
theorem memWriteMasked_of_store {r : RegId} {m v : RegWord} {s : State} {g : RegSpace}
    (ha : accessFault s.board s.regs r = none)
    (hg : storeReg (Config.txStaysReady s.draws) r m v s.regs = .next g) :
    memWriteMasked r m v s = .next (s.wrote r m v g) :=
  memWriteMasked_eq_next.mpr ⟨ha, g, hg, rfl⟩

/-- Everything a read can do. -/
theorem memRead_eq_next {r : RegId} {s : State} {x : RegWord × State} :
    memRead r s = .next x ↔
      accessFault s.board s.regs r = none ∧
      ∃ w g, loadReg r s.regs = .next (w, g) ∧ x = (w, s.didRead r w g) := by
  unfold memRead
  cases accessFault s.board s.regs r with
  | some f => simp
  | none =>
    simp only [bindNext_eq_next, Host.Outcome.next.injEq, true_and]
    constructor
    · rintro ⟨⟨w, g⟩, h, rfl⟩; exact ⟨w, g, h, rfl⟩
    · rintro ⟨w, g, h, rfl⟩; exact ⟨(w, g), h, rfl⟩

/-- A write to SYS.CLKGATE always has its effect. -/
theorem memWriteMasked_sysClkgate (m v : RegWord) (s : State) :
    memWriteMasked .sysClkgate m v s =
      .next (s.wrote .sysClkgate m v { s.regs with clkgate := merge s.regs.clkgate m v }) := rfl

theorem memWriteMasked_actDrv (m v : RegWord) (s : State) :
    memWriteMasked .actDrv m v s =
      .next (s.wrote .actDrv m v { s.regs with actDrv := merge s.regs.actDrv m v }) := rfl

theorem memWriteMasked_pwmCtl (m v : RegWord) (s : State) :
    memWriteMasked .pwmCtl m v s = .next (s.wrote .pwmCtl m v (writePwmCtl m v s.regs)) := rfl

theorem memWriteMasked_pwmLoad (m v : RegWord) (s : State) :
    memWriteMasked .pwmLoad m v s =
      .next (s.wrote .pwmLoad m v { s.regs with pwmLoad := merge s.regs.pwmLoad m v }) := rfl

theorem memWriteMasked_pwmCmp (m v : RegWord) (s : State) :
    memWriteMasked .pwmCmp m v s =
      .next (s.wrote .pwmCmp m v { s.regs with pwmCmp := merge s.regs.pwmCmp m v }) := rfl

/-- A write to a bank register: a fault while the port's clock is off (60 R218), else the bank changes. -/
theorem memWriteMasked_gpio {p : Port} {k : BankReg} {b : Bank} {m v : RegWord} {s : State}
    (hb : bankWrite (s.regs.banks.get p) k m v = some b) :
    memWriteMasked (.gpio p k) m v s =
      if clockOn s.board s.regs p then .next (s.wrote (.gpio p k) m v (setBank s.regs p b))
      else .fault (.unclockedAccess p) := by
  rw [memWriteMasked, accessFault_gpio]
  by_cases h : clockOn s.board s.regs p <;> simp [h, storeReg, hb]

theorem memWriteMasked_icEn (l : Nat) (m v : RegWord) (s : State) :
    memWriteMasked (.icEn l) m v s =
      if l < s.board.nlines then
        .next (s.wrote (.icEn l) m v { s.regs with icEn := lineWrite s.regs.icEn l (merge (lineRead s.regs.icEn l) m v) })
      else .fault (.noSuchRegister l) := by
  rw [memWriteMasked, accessFault_icEn]
  by_cases h : l < s.board.nlines <;> simp [h, storeReg]

theorem memWriteMasked_icPri (l : Nat) (m v : RegWord) (s : State) :
    memWriteMasked (.icPri l) m v s =
      if l < s.board.nlines then
        .next (s.wrote (.icPri l) m v
          { s.regs with icPri := lineWrite s.regs.icPri l (merge (lineRead s.regs.icPri l) m v) })
      else .fault (.noSuchRegister l) := by
  rw [memWriteMasked, accessFault_icPri]
  by_cases h : l < s.board.nlines <;> simp [h, storeReg]

/-- A write to UART.DATA: the byte is sent while TXRDY = 1, else refused (43 R187). -/
theorem memWriteMasked_uartData (m v : RegWord) (s : State) :
    memWriteMasked .uartData m v s =
      if s.regs.txRdy then
        .next (s.wrote .uartData m v (sendByte (Config.txStaysReady s.draws) (byteField v) s.regs))
      else .refused .dataWriteNotReady := by
  simp only [memWriteMasked, accessFault_uartData, storeReg]
  split <;> rfl

theorem memRead_pwmLoad (s : State) :
    memRead .pwmLoad s = .next (s.regs.pwmLoad, s.didRead .pwmLoad s.regs.pwmLoad s.regs) := rfl

theorem memRead_uartFlags (s : State) :
    memRead .uartFlags s = .next (flagsWord s.regs, s.didRead .uartFlags (flagsWord s.regs) s.regs) := rfl

/-- A read of UART.DATA takes the oldest byte (43 R189). -/
theorem memRead_uartData {s : State} {b : Byte} {rest : List Byte} (h : s.regs.rxq = b :: rest) :
    memRead .uartData s =
      .next (s.regs.dataHi ++ b, s.didRead .uartData (s.regs.dataHi ++ b) { s.regs with rxq := rest }) := by
  simp [memRead, loadReg, h]

theorem memRead_uartData_empty {s : State} (h : s.regs.rxq = []) :
    memRead .uartData s = .refused .dataReadEmpty := by
  simp [memRead, loadReg, h]

/-! ### What an access leaves -/

/-- A write of PWM.CTL stores the masked bits, with a reload exactly when it changes EN from 0 to 1 (42 R168). -/
theorem writePwmCtl_cases (m v : RegWord) (g : RegSpace) :
    ((pwmEnabled g.pwmCtl = false ∧ pwmEnabled (merge g.pwmCtl m v) = true) ∧
      writePwmCtl m v g = reloadPwm { g with pwmCtl := merge g.pwmCtl m v }) ∨
    ((pwmEnabled g.pwmCtl = true ∨ pwmEnabled (merge g.pwmCtl m v) = false) ∧
      writePwmCtl m v g = { g with pwmCtl := merge g.pwmCtl m v }) := by
  cases h0 : pwmEnabled g.pwmCtl <;> cases h1 : pwmEnabled (merge g.pwmCtl m v) <;> simp [writePwmCtl, h0, h1]

/-- What a masked write leaves: every register of the space but the one it names (and what 20 R68 adds to that one). -/
theorem storeReg_frame {stays : Bool} {r : RegId} {m v : RegWord} {g g' : RegSpace} (h : storeReg stays r m v g = .next g') :
    (r ≠ .sysClkgate → g'.clkgate = g.clkgate) ∧
    ((∀ p k, r ≠ .gpio p k) → g'.banks = g.banks) ∧
    ((∀ l, r ≠ .icEn l) → g'.icEn = g.icEn) ∧
    ((∀ l, r ≠ .icPri l) → g'.icPri = g.icPri) ∧
    (r ≠ .actDrv → g'.actDrv = g.actDrv) ∧
    (r ≠ .pwmCtl → g'.pwmCtl = g.pwmCtl ∧ g'.pwmCmpAct = g.pwmCmpAct ∧ g'.pwmCount = g.pwmCount) ∧
    (r ≠ .pwmLoad → g'.pwmLoad = g.pwmLoad) ∧
    (r ≠ .pwmCmp → g'.pwmCmp = g.pwmCmp) ∧
    (r ≠ .uartData → g'.txRdy = g.txRdy ∧ g'.txLog = g.txLog) ∧
    g'.flagsHi = g.flagsHi ∧ g'.dataHi = g.dataHi ∧ g'.rxq = g.rxq := by
  cases r with
  | gpio p k =>
    simp only [storeReg] at h
    split at h
    · cases h; simp
    · cases h
  | pwmCtl =>
    cases h
    rcases writePwmCtl_cases m v g with ⟨_, e⟩ | ⟨_, e⟩ <;> simp [e, reloadPwm]
  | uartFlags => cases h
  | uartData =>
    simp only [storeReg] at h
    split at h
    · cases h; simp [sendByte]
    · cases h
  | _ => cases h; simp

/-- A read changes the register space only at UART.DATA (20 R67). -/
theorem loadReg_space {r : RegId} {g g' : RegSpace} {w : RegWord} (h : loadReg r g = .next (w, g')) (hr : r ≠ .uartData) :
    g' = g := by
  cases r with
  | gpio p k =>
    simp only [loadReg] at h
    split at h <;> cases h
    rfl
  | uartData => exact absurd rfl hr
  | _ => cases h; rfl

/-- Clocks that go off change nothing but banks (93 U17). -/
theorem loseBanks_banks_only (bd : Board) (before : RegSpace) (lost : PortTable Bank) (g : RegSpace) :
    ∃ b, loseBanks bd before lost g = { g with banks := b } := by
  have key : ∀ l : List Port, ∃ b, l.foldr (fun p h => loseBank bd before lost p h) g = { g with banks := b } := by
    intro l
    induction l with
    | nil => exact ⟨g.banks, rfl⟩
    | cons p l ih =>
      obtain ⟨b, hb⟩ := ih
      rw [List.foldr_cons, hb, loseBank]
      split
      · exact ⟨_, rfl⟩
      · exact ⟨b, rfl⟩
  exact key _

/-! ### Bits of the words read -/

@[simp] theorem txRdyOf_flagsWord (g : RegSpace) : txRdyOf (flagsWord g) = g.txRdy := by
  simp only [txRdyOf, flagsWord, BitVec.getLsbD_append]
  cases g.txRdy <;> rfl

@[simp] theorem rxAvlOf_flagsWord (g : RegSpace) : rxAvlOf (flagsWord g) = rxAvl g := by
  simp only [rxAvlOf, flagsWord, BitVec.getLsbD_append]
  cases rxAvl g <;> rfl

@[simp] theorem byteField_append (hi : BitVec 24) (b : Byte) : byteField (hi ++ b) = b := by
  apply BitVec.eq_of_getLsbD_eq
  intro j hj
  simp only [byteField, BitVec.getLsbD_extractLsb', BitVec.getLsbD_append, Nat.zero_add, hj, decide_true, Bool.true_and,
    if_true]

@[simp] theorem byteField_setWidth (b : Byte) : byteField (b.setWidth 32) = b := by
  apply BitVec.eq_of_getLsbD_eq
  intro j hj
  simp only [byteField, BitVec.getLsbD_extractLsb', BitVec.getLsbD_setWidth, Nat.zero_add, hj, decide_true, Bool.true_and]
  have : j < 32 := by omega
  simp [this]

@[simp] theorem pwmField_setWidth (v : PwmWord) : pwmField (v.setWidth 32) = v := by
  apply BitVec.eq_of_getLsbD_eq
  intro j hj
  simp only [pwmField, BitVec.getLsbD_extractLsb', BitVec.getLsbD_setWidth, Nat.zero_add, hj, decide_true, Bool.true_and]
  have : j < 32 := by omega
  simp [this]

theorem boundedCompare_le (cmp load : PwmWord) : boundedCompare cmp load ≤ load := by
  unfold boundedCompare; split
  · assumption
  · exact BitVec.le_refl _

/-! ### The operand forms -/

theorem portSel_eq_none {c : BitVec 4} : portSel c = none ↔ 5 < c.toNat := by
  revert c; decide

theorem portSel_isSome {c : BitVec 4} : (portSel c).isSome = decide (c.toNat ≤ 5) := by
  cases h : portSel c with
  | none => simp [portSel_eq_none.mp h]
  | some p =>
    have : ¬ 5 < c.toNat := fun hc => by rw [portSel_eq_none.mpr hc] at h; cases h
    simp; omega

theorem pinSel_isSome {n : BitVec 8} : (pinSel n).isSome = decide (n.toNat ≤ 7) := by
  unfold pinSel; split
  · simp; omega
  · simp; omega

theorem resSel_isSome {r : BitVec 2} : (resSel r).isSome = decide (r.toNat ≤ 2) := by
  revert r; decide

theorem configureOperands_isSome (port : BitVec 4) (pin : BitVec 8) (res : BitVec 2) :
    (configureOperands port pin res).isSome =
      (decide (port.toNat ≤ 5) && decide (pin.toNat ≤ 7) && decide (res.toNat ≤ 2)) := by
  rw [← portSel_isSome, ← pinSel_isSome, ← resSel_isSome, configureOperands]
  cases portSel port <;> cases pinSel pin <;> cases resSel res <;> rfl

theorem attachOperands_isSome (port : BitVec 4) (pin : BitVec 8) (prio : BitVec 8) :
    (attachOperands port pin prio).isSome =
      (decide (port.toNat ≤ 5) && decide (pin.toNat ≤ 7) && decide (prio.toNat ≤ 7)) := by
  rw [← portSel_isSome, ← pinSel_isSome, attachOperands, show decide (prio.toNat ≤ 7) = validPrio prio from rfl]
  cases portSel port <;> cases pinSel pin <;> cases validPrio prio <;> rfl

/-- Step S0 rejects exactly the ill-formed commands. -/
theorem wellFormed_iff_operands (i : Instr) :
    i.wellFormed = match i with
      | .configurePin port pin _ res => (configureOperands port pin res).isSome
      | .attachInterrupt port pin prio _ => (attachOperands port pin prio).isSome
      | _ => true := by
  cases i <;> simp [Instr.wellFormed, configureOperands_isSome, attachOperands_isSome]

end Sys2Proof.Machine
end

