-- ==== Sys2Proof/Laws/Exec.lean ====
section
/-! SUPPORT. What each step of each command does: one equation per step, and one inversion lemma for all commands. -/

namespace Sys2Proof.Machine

/-! ### Step numbers -/

theorem stepNo_eq_zero_iff {s : State} : s.stepNo = 0 ↔ s.stepNo.toNat = 0 := by
  rw [← BitVec.toNat_inj]; rfl

theorem stepNo_ne_zero {s : State} {n : Nat} (h : s.stepNo.toNat = n) (hn : n ≠ 0) : s.stepNo ≠ 0 := by
  rw [ne_eq, stepNo_eq_zero_iff, h]; exact hn

/-! ### CONFIGURE_PIN -/

theorem exec_configurePin_zero {port pin dir res} {s : State} (h : s.stepNo = 0) :
    exec (.configurePin port pin dir res) s = checkThenStart (configureOperands port pin res).isSome s := by
  simp [exec, execConfigurePin, h]

theorem exec_configurePin_of_operands {port pin dir res} {p : Port} {i : Fin 8} {r : Resistor} {s : State}
    (ho : configureOperands port pin res = some (p, i, r)) (h : s.stepNo ≠ 0) :
    exec (.configurePin port pin dir res) s = configureStep p i dir r s := by
  simp only [exec, execConfigurePin, if_neg h, ho]

theorem exec_configurePin_bad {port pin dir res} {s : State}
    (ho : configureOperands port pin res = none) (h : s.stepNo ≠ 0) :
    exec (.configurePin port pin dir res) s = .fault .noSuchStep := by
  simp only [exec, execConfigurePin, if_neg h, ho]

theorem configureOperands_eq_some {port pin res} {p : Port} {i : Fin 8} {r : Resistor} :
    configureOperands port pin res = some (p, i, r) ↔ portSel port = some p ∧ pinSel pin = some i ∧ resSel res = some r := by
  unfold configureOperands
  cases portSel port <;> cases pinSel pin <;> cases resSel res <;> simp

theorem attachOperands_eq_some {port pin prio} {p : Port} {i : Fin 8} :
    attachOperands port pin prio = some (p, i) ↔ portSel port = some p ∧ pinSel pin = some i ∧ prio.toNat ≤ 7 := by
  rw [show (prio.toNat ≤ 7) ↔ validPrio prio = true by simp [validPrio]]
  unfold attachOperands
  cases portSel port <;> cases pinSel pin <;> cases validPrio prio <;> simp

/-! ### ATTACH_INTERRUPT -/

theorem exec_attachInterrupt_zero {port pin prio edge} {s : State} (h : s.stepNo = 0) :
    exec (.attachInterrupt port pin prio edge) s = checkThenStart (attachOperands port pin prio).isSome s := by
  simp [exec, execAttachInterrupt, h]

theorem exec_attachInterrupt_of_operands {port pin prio edge} {p : Port} {i : Fin 8} {s : State}
    (ho : attachOperands port pin prio = some (p, i)) (h : s.stepNo ≠ 0) :
    exec (.attachInterrupt port pin prio edge) s = attachStep p i prio edge s := by
  simp only [exec, execAttachInterrupt, if_neg h, ho]

theorem exec_attachInterrupt_bad {port pin prio edge} {s : State}
    (ho : attachOperands port pin prio = none) (h : s.stepNo ≠ 0) :
    exec (.attachInterrupt port pin prio edge) s = .fault .noSuchStep := by
  simp only [exec, execAttachInterrupt, if_neg h, ho]

/-! ### Everything one step of a command can do -/

/-- A step with no transaction: S0, which goes on or rejects. -/
inductive StartEffect (s : State) : State → Prop where
  | start : s.stepNo = 0 → StartEffect s (s.goto 1)
  | reject : s.stepNo = 0 → StartEffect s (s.respond statusInvalidParameter 0)

/-- A step that makes one masked write, and goes on or responds. -/
inductive WriteEffect (r : RegId) (m v : RegWord) (s : State) : State → Prop where
  | goes (g : RegSpace) (k : StepNo) : accessFault s.board s.regs r = none →
      storeReg (Config.txStaysReady s.draws) r m v s.regs = .next g → WriteEffect r m v s ((s.wrote r m v g).goto k)
  | ends (g : RegSpace) : accessFault s.board s.regs r = none →
      storeReg (Config.txStaysReady s.draws) r m v s.regs = .next g →
      WriteEffect r m v s ((s.wrote r m v g).respond statusOk 0)

theorem thenGoto_write {r : RegId} {m v : RegWord} {s t : State} {k : StepNo}
    (h : thenGoto k (memWriteMasked r m v s) = .next t) : WriteEffect r m v s t := by
  obtain ⟨a, ha, rfl⟩ := thenGoto_eq_next.mp h
  obtain ⟨hf, g, hg, rfl⟩ := memWriteMasked_eq_next.mp ha
  exact .goes g k hf hg

theorem thenDone_write {r : RegId} {m v : RegWord} {s t : State}
    (h : thenDone (memWriteMasked r m v s) = .next t) : WriteEffect r m v s t := by
  obtain ⟨a, ha, rfl⟩ := thenDone_eq_next.mp h
  obtain ⟨hf, g, hg, rfl⟩ := memWriteMasked_eq_next.mp ha
  exact .ends g hf hg

theorem checkThenStart_next {ok : Bool} {s t : State} (h0 : s.stepNo = 0) (h : checkThenStart ok s = .next t) :
    StartEffect s t := by
  unfold checkThenStart raise at h
  split at h
  · cases h; exact .start h0
  · cases h; exact .reject h0

/-- Inversion: a step of CONFIGURE_PIN that answers a next state. -/
theorem configurePin_next {port pin dir res} {s t : State} (h : exec (.configurePin port pin dir res) s = .next t) :
    StartEffect s t ∨
    ∃ p i r, configureOperands port pin res = some (p, i, r) ∧
      ((s.stepNo.toNat = 1 ∧
          WriteEffect .sysClkgate (oneHot (s.board.clkBit p)) (oneHot (s.board.clkBit p)) s t) ∨
        (∃ k, s.stepNo.toNat = 2 ∧ oppositeReg r = some k ∧ WriteEffect (.gpio p k) (oneHot i.val) 0 s t) ∨
        (∃ k, s.stepNo.toNat = 3 ∧ requestedReg r = some k ∧
          WriteEffect (.gpio p k) (oneHot i.val) (oneHot i.val) s t) ∨
        (s.stepNo.toNat = 4 ∧ WriteEffect (.gpio p .dir) (oneHot i.val) (bitAt (dirValue dir) i.val) s t) ∨
        (s.stepNo.toNat = 5 ∧ WriteEffect (.gpio p .den) (oneHot i.val) (oneHot i.val) s t)) := by
  by_cases h0 : s.stepNo = 0
  · rw [exec_configurePin_zero h0] at h; exact .inl (checkThenStart_next h0 h)
  cases ho : configureOperands port pin res with
  | none => rw [exec_configurePin_bad ho h0] at h; cases h
  | some x =>
    obtain ⟨p, i, r⟩ := x
    rw [exec_configurePin_of_operands ho h0] at h
    refine .inr ⟨p, i, r, rfl, ?_⟩
    unfold configureStep at h
    split at h
    · exact .inl ⟨by assumption, thenGoto_write h⟩
    · split at h
      · exact .inr (.inl ⟨_, by assumption, by assumption, thenGoto_write h⟩)
      · cases h
    · split at h
      · exact .inr (.inr (.inl ⟨_, by assumption, by assumption, thenGoto_write h⟩))
      · cases h
    · exact .inr (.inr (.inr (.inl ⟨by assumption, thenGoto_write h⟩)))
    · exact .inr (.inr (.inr (.inr ⟨by assumption, thenDone_write h⟩)))
    · cases h

/-- Inversion: a step of ATTACH_INTERRUPT that answers a next state. -/
theorem attachInterrupt_next {port pin prio edge} {s t : State}
    (h : exec (.attachInterrupt port pin prio edge) s = .next t) :
    StartEffect s t ∨
    ∃ p i, attachOperands port pin prio = some (p, i) ∧
      ((s.stepNo.toNat = 1 ∧ WriteEffect (.gpio p .is) (oneHot i.val) 0 s t) ∨
        (s.stepNo.toNat = 2 ∧ WriteEffect (.gpio p .ibe) (oneHot i.val) (bitAt (edgeValue edge) i.val) s t) ∨
        (s.stepNo.toNat = 3 ∧ WriteEffect (.gpio p .icr) (oneHot i.val) (oneHot i.val) s t) ∨
        (s.stepNo.toNat = 4 ∧ WriteEffect (.gpio p .im) (oneHot i.val) (oneHot i.val) s t) ∨
        (s.stepNo.toNat = 5 ∧ WriteEffect (.icPri (s.board.irqLine p)) 0x7 (prioWord prio) s t) ∨
        (s.stepNo.toNat = 6 ∧ WriteEffect (.icEn (s.board.irqLine p)) 0x1 0x1 s t)) := by
  by_cases h0 : s.stepNo = 0
  · rw [exec_attachInterrupt_zero h0] at h; exact .inl (checkThenStart_next h0 h)
  cases ho : attachOperands port pin prio with
  | none => rw [exec_attachInterrupt_bad ho h0] at h; cases h
  | some x =>
    obtain ⟨p, i⟩ := x
    rw [exec_attachInterrupt_of_operands ho h0] at h
    refine .inr ⟨p, i, rfl, ?_⟩
    unfold attachStep at h
    split at h
    · exact .inl ⟨by assumption, thenGoto_write h⟩
    · exact .inr (.inl ⟨by assumption, thenGoto_write h⟩)
    · exact .inr (.inr (.inl ⟨by assumption, thenGoto_write h⟩))
    · exact .inr (.inr (.inr (.inl ⟨by assumption, thenGoto_write h⟩)))
    · exact .inr (.inr (.inr (.inr (.inl ⟨by assumption, thenGoto_write h⟩))))
    · exact .inr (.inr (.inr (.inr (.inr ⟨by assumption, thenDone_write h⟩))))
    · cases h

/-- Inversion: a step of ACT_FORWARD or ACT_REVERSE that answers a next state. -/
theorem driveStep_next {off on : Nat} {s t : State} (h : driveStep off on s = .next t) :
    (s.stepNo.toNat = 0 ∧ t = s.goto 1) ∨
    (s.stepNo.toNat = 1 ∧ t = (s.wrote .actDrv (oneHot off) 0
      { s.regs with actDrv := merge s.regs.actDrv (oneHot off) 0 }).goto 2) ∨
    (s.stepNo.toNat = 2 ∧ t = (s.wrote .actDrv (oneHot on) (oneHot on)
      { s.regs with actDrv := merge s.regs.actDrv (oneHot on) (oneHot on) }).respond statusOk 0) := by
  unfold driveStep at h
  split at h
  · cases h; exact .inl ⟨by assumption, rfl⟩
  · rw [clrBit, memWriteMasked_actDrv] at h; cases h; exact .inr (.inl ⟨by assumption, rfl⟩)
  · rw [setBit, memWriteMasked_actDrv] at h; cases h; exact .inr (.inr ⟨by assumption, rfl⟩)
  · cases h

/-- Inversion: a step of ACT_STOP that answers a next state. -/
theorem actStop_next {s t : State} (h : execActStop s = .next t) :
    (s.stepNo.toNat = 0 ∧ t = s.goto 1) ∨
    (s.stepNo.toNat = 1 ∧ t = (s.wrote .actDrv 0x3 0x0
      { s.regs with actDrv := merge s.regs.actDrv 0x3 0x0 }).respond statusOk 0) := by
  unfold execActStop at h
  split at h
  · cases h; exact .inl ⟨by assumption, rfl⟩
  · rw [memWriteMasked_actDrv] at h; cases h; exact .inr ⟨by assumption, rfl⟩
  · cases h

/-- Inversion: a step of INIT_PWM that answers a next state. -/
theorem initPwm_next {load cmp : PwmWord} {s t : State} (h : execInitPwm load cmp s = .next t) :
    (s.stepNo.toNat = 0 ∧ t = s.goto 1) ∨
    (s.stepNo.toNat = 1 ∧ t = (s.wrote .pwmCtl 0x3 0x0 (writePwmCtl 0x3 0x0 s.regs)).goto 2) ∨
    (s.stepNo.toNat = 2 ∧ t = (s.wrote .pwmLoad 0xFFFF (load.setWidth 32)
      { s.regs with pwmLoad := merge s.regs.pwmLoad 0xFFFF (load.setWidth 32) }).goto 3) ∨
    (s.stepNo.toNat = 3 ∧ t = (s.wrote .pwmCmp 0xFFFF ((boundedCompare cmp load).setWidth 32)
      { s.regs with pwmCmp := merge s.regs.pwmCmp 0xFFFF ((boundedCompare cmp load).setWidth 32) }).goto 4) ∨
    (s.stepNo.toNat = 4 ∧ t = (s.wrote .pwmCtl 0x3 0x1 (writePwmCtl 0x3 0x1 s.regs)).respond statusOk 0) := by
  unfold execInitPwm at h
  split at h
  · cases h; exact .inl ⟨by assumption, rfl⟩
  · rw [memWriteMasked_pwmCtl] at h; cases h; exact .inr (.inl ⟨by assumption, rfl⟩)
  · rw [memWriteMasked_pwmLoad] at h; cases h; exact .inr (.inr (.inl ⟨by assumption, rfl⟩))
  · rw [memWriteMasked_pwmCmp] at h; cases h; exact .inr (.inr (.inr (.inl ⟨by assumption, rfl⟩)))
  · rw [memWriteMasked_pwmCtl] at h; cases h; exact .inr (.inr (.inr (.inr ⟨by assumption, rfl⟩)))
  · cases h

/-- Inversion: a step of SET_DUTY that answers a next state. -/
theorem setDuty_next {cmp : PwmWord} {s t : State} (h : execSetDuty cmp s = .next t) :
    (s.stepNo.toNat = 0 ∧ t = s.goto 1) ∨
    (s.stepNo.toNat = 1 ∧
      t = ((s.didRead .pwmLoad s.regs.pwmLoad s.regs).withTmp (pwmField s.regs.pwmLoad)).goto 2) ∨
    (s.stepNo.toNat = 2 ∧ t = (s.wrote .pwmCmp 0xFFFF ((boundedCompare cmp s.tmp).setWidth 32)
      { s.regs with pwmCmp := merge s.regs.pwmCmp 0xFFFF ((boundedCompare cmp s.tmp).setWidth 32) }).respond
        statusOk 0) := by
  unfold execSetDuty at h
  split at h
  · cases h; exact .inl ⟨by assumption, rfl⟩
  · rw [memRead_pwmLoad] at h; cases h; exact .inr (.inl ⟨by assumption, rfl⟩)
  · rw [memWriteMasked_pwmCmp] at h; cases h; exact .inr (.inr ⟨by assumption, rfl⟩)
  · cases h

/-- Inversion: a step of TRANSMIT_BYTE that answers a next state. -/
theorem transmitByte_next {byte : Byte} {s t : State} (h : execTransmitByte byte s = .next t) :
    (s.stepNo.toNat = 0 ∧ t = s.goto 1) ∨
    (s.stepNo.toNat = 1 ∧
      t = (s.didRead .uartFlags (flagsWord s.regs) s.regs).goto (if s.regs.txRdy then 2 else 1)) ∨
    (s.stepNo.toNat = 2 ∧ s.regs.txRdy = true ∧ t = (s.wrote .uartData 0xFF (byte.setWidth 32)
      (sendByte (Config.txStaysReady s.draws) byte s.regs)).respond statusOk 0) := by
  unfold execTransmitByte at h
  split at h
  · cases h; exact .inl ⟨by assumption, rfl⟩
  · rw [pollFlag, memRead_uartFlags, bindNext_next] at h
    cases h; exact .inr (.inl ⟨by assumption, by rw [txRdyOf_flagsWord]⟩)
  · rw [memWriteMasked_uartData] at h
    split at h
    · cases h; exact .inr (.inr ⟨by assumption, by assumption, by rw [byteField_setWidth]⟩)
    · cases h
  · cases h

/-- Inversion: a step of RECEIVE_BYTE that answers a next state. -/
theorem receiveByte_next {s t : State} (h : execReceiveByte s = .next t) :
    (s.stepNo.toNat = 0 ∧ t = s.goto 1) ∨
    (s.stepNo.toNat = 1 ∧
      t = (s.didRead .uartFlags (flagsWord s.regs) s.regs).goto (if rxAvl s.regs then 2 else 1)) ∨
    (∃ b rest, s.stepNo.toNat = 2 ∧ s.regs.rxq = b :: rest ∧
      t = (s.didRead .uartData (s.regs.dataHi ++ b) { s.regs with rxq := rest }).respond statusOk b) := by
  unfold execReceiveByte at h
  split at h
  · cases h; exact .inl ⟨by assumption, rfl⟩
  · rw [pollFlag, memRead_uartFlags, bindNext_next] at h
    cases h; exact .inr (.inl ⟨by assumption, by rw [rxAvlOf_flagsWord]⟩)
  · cases hq : s.regs.rxq with
    | nil => rw [memRead_uartData_empty hq] at h; cases h
    | cons b rest =>
      rw [memRead_uartData hq, bindNext_next] at h
      cases h; exact .inr (.inr ⟨b, rest, by assumption, rfl, by simp only [byteField_append]⟩)
  · cases h

/-! ### What a write leaves -/

/-- A write to a bank register answers with the bank that `bankWrite` gives, while the port's clock is on. -/
theorem WriteEffect.gpio {p : Port} {k : BankReg} {m v : RegWord} {s t : State} (h : WriteEffect (.gpio p k) m v s t) :
    clockOn s.board s.regs p = true ∧
    ∃ b, bankWrite (s.regs.banks.get p) k m v = some b ∧ t.regs = setBank s.regs p b := by
  have key : ∀ g, accessFault s.board s.regs (.gpio p k) = none →
      storeReg (Config.txStaysReady s.draws) (.gpio p k) m v s.regs = .next g →
      clockOn s.board s.regs p = true ∧ ∃ b, bankWrite (s.regs.banks.get p) k m v = some b ∧ g = setBank s.regs p b := by
    intro g ha hg
    rw [accessFault_gpio] at ha
    refine ⟨by by_contra hc; simp [hc] at ha, ?_⟩
    simp only [storeReg] at hg
    split at hg
    · rename_i b hb; cases hg; exact ⟨b, hb, rfl⟩
    · cases hg
  cases h with
  | goes g k' ha hg => exact key g ha hg
  | ends g ha hg => exact key g ha hg

theorem WriteEffect.frame {r : RegId} {m v : RegWord} {s t : State} (h : WriteEffect r m v s t) :
    t.cmd = s.cmd ∧ t.tmp = s.tmp ∧ t.cmdPort = s.cmdPort ∧ t.board = s.board ∧ t.moves = s.moves ∧
    t.draws = drawsAfter r s.draws ∧ t.regPort = .writing r m v true ∧
    accessFault s.board s.regs r = none ∧
    storeReg (Config.txStaysReady s.draws) r m v s.regs = .next t.regs := by
  cases h with
  | goes g k ha hg => exact ⟨rfl, rfl, rfl, rfl, rfl, rfl, rfl, ha, hg⟩
  | ends g ha hg => exact ⟨rfl, rfl, rfl, rfl, rfl, rfl, rfl, ha, hg⟩

theorem StartEffect.frame {s t : State} (h : StartEffect s t) :
    t.cmd = s.cmd ∧ t.tmp = s.tmp ∧ t.cmdPort = s.cmdPort ∧ t.board = s.board ∧ t.moves = s.moves ∧
    t.draws = s.draws ∧ t.regPort = s.regPort ∧ t.regs = s.regs := by
  cases h <;> exact ⟨rfl, rfl, rfl, rfl, rfl, rfl, rfl, rfl⟩

/-- No step of a command changes CMD, the command port, the board or the script. -/
theorem exec_keeps {i : Instr} {s t : State} (h : exec i s = .next t) :
    t.cmd = s.cmd ∧ t.cmdPort = s.cmdPort ∧ t.board = s.board ∧ t.moves = s.moves := by
  cases i with
  | configurePin port pin dir res =>
    rcases configurePin_next h with h | ⟨p, j, r, _, h | ⟨k, _, _, h⟩ | ⟨k, _, _, h⟩ | h | h⟩
    · have := h.frame; tauto
    · have := h.2.frame; tauto
    · have := h.frame; tauto
    · have := h.frame; tauto
    · have := h.2.frame; tauto
    · have := h.2.frame; tauto
  | attachInterrupt port pin prio edge =>
    rcases attachInterrupt_next h with h | ⟨p, j, _, h | h | h | h | h | h⟩
    · have := h.frame; tauto
    all_goals have := h.2.frame; tauto
  | actForward => rcases driveStep_next h with ⟨_, rfl⟩ | ⟨_, rfl⟩ | ⟨_, rfl⟩ <;> simp
  | actReverse => rcases driveStep_next h with ⟨_, rfl⟩ | ⟨_, rfl⟩ | ⟨_, rfl⟩ <;> simp
  | actStop => rcases actStop_next h with ⟨_, rfl⟩ | ⟨_, rfl⟩ <;> simp
  | initPwm load cmp =>
    rcases initPwm_next h with ⟨_, rfl⟩ | ⟨_, rfl⟩ | ⟨_, rfl⟩ | ⟨_, rfl⟩ | ⟨_, rfl⟩ <;> simp
  | setDuty cmp => rcases setDuty_next h with ⟨_, rfl⟩ | ⟨_, rfl⟩ | ⟨_, rfl⟩ <;> simp
  | transmitByte byte => rcases transmitByte_next h with ⟨_, rfl⟩ | ⟨_, rfl⟩ | ⟨_, _, rfl⟩ <;> simp
  | receiveByte => rcases receiveByte_next h with ⟨_, rfl⟩ | ⟨_, rfl⟩ | ⟨_, _, _, _, rfl⟩ <;> simp

/-- When SEQ moves it keeps the board and the script. -/
theorem seqMove_keeps {s t : State} (h : seqMove s = .next t) : t.board = s.board ∧ t.moves = s.moves := by
  unfold seqMove at h
  split at h
  · split at h
    · exact (exec_keeps h).2.2
    · unfold illegalStep raise at h
      split at h <;> cases h
      exact ⟨rfl, rfl⟩
  · split at h <;> cases h <;> exact ⟨rfl, rfl⟩

end Sys2Proof.Machine
end

