-- ==== Sys2Proof/Laws/PerInstr.lean ====
section
/-! SUPPORT. The family `TableRow`, one lemma per command: the word the encoder gives a command, whatever its operands, matches
the command's own row of spec/opcode_table.json (30 R93). -/

namespace Sys2Proof.Laws.TableRow

/-- The mask and the match of a command's row of spec/opcode_table.json. -/
def row : Instr → CmdWord × CmdWord
  | .configurePin _ _ _ _ => (0xF000FFFF8, 0x100000000)
  | .attachInterrupt _ _ _ _ => (0xF00000FFE, 0x200000000)
  | .actForward => (0xFFFFFFFFF, 0x400000000)
  | .actReverse => (0xFFFFFFFFF, 0x500000000)
  | .actStop => (0xFFFFFFFFF, 0x600000000)
  | .initPwm _ _ => (0xF00000000, 0x800000000)
  | .setDuty _ => (0xFFFFF0000, 0x900000000)
  | .transmitByte _ => (0xFFFFFFF00, 0xC00000000)
  | .receiveByte => (0xFFFFFFFFF, 0xD00000000)

/-- The encoded word agrees with the row: (word & mask) = match. -/
def Statement (i : Instr) : Prop := encode i &&& (row i).1 = (row i).2

theorem configurePin (port : BitVec 4) (pin : BitVec 8) (dir : Direction) (res : BitVec 2) :
    Statement (.configurePin port pin dir res) := by
  simp only [Statement, encode, row]
  ext j hj
  simp only [BitVec.getElem_and, BitVec.getElem_append]
  interval_cases j <;> simp

theorem attachInterrupt (port : BitVec 4) (pin prio : BitVec 8) (edge : EdgeMode) :
    Statement (.attachInterrupt port pin prio edge) := by
  simp only [Statement, encode, row]
  ext j hj
  simp only [BitVec.getElem_and, BitVec.getElem_append]
  interval_cases j <;> simp

theorem actForward : Statement .actForward := by unfold Statement; decide

theorem actReverse : Statement .actReverse := by unfold Statement; decide

theorem actStop : Statement .actStop := by unfold Statement; decide

theorem initPwm (load cmp : PwmWord) : Statement (.initPwm load cmp) := by
  simp only [Statement, encode, row]
  ext j hj
  simp only [BitVec.getElem_and, BitVec.getElem_append]
  interval_cases j <;> simp

theorem setDuty (cmp : PwmWord) : Statement (.setDuty cmp) := by
  simp only [Statement, encode, row]
  ext j hj
  simp only [BitVec.getElem_and, BitVec.getElem_append]
  interval_cases j <;> simp

theorem transmitByte (byte : Byte) : Statement (.transmitByte byte) := by
  simp only [Statement, encode, row]
  ext j hj
  simp only [BitVec.getElem_and, BitVec.getElem_append]
  interval_cases j <;> simp

theorem receiveByte : Statement .receiveByte := by unfold Statement; decide

end Sys2Proof.Laws.TableRow
end

