-- ==== Sys2Proof/Laws/Runs.lean ====
section
/-! SUPPORT. Runs of several steps, step by step. -/

namespace Sys2Proof

open Machine

theorem run_of_next {M : Host.Core} {k : Nat} {s u : M.State} (h : M.step s = .next u) :
    Host.Core.run M (k + 1) s = Host.Core.run M k u := by
  show (match M.step s with
    | .next t => Host.Core.run M k t
    | .fault f => .fault f
    | .refused r => .refused r) = _
  rw [h]

theorem run_of_fault {M : Host.Core} {k : Nat} {s : M.State} {f : M.Fault} (h : M.step s = .fault f) :
    Host.Core.run M (k + 1) s = .fault f := by
  show (match M.step s with
    | .next t => Host.Core.run M k t
    | .fault f => .fault f
    | .refused r => .refused r) = _
  rw [h]

theorem run_of_refused {M : Host.Core} {k : Nat} {s : M.State} {r : M.Refusal} (h : M.step s = .refused r) :
    Host.Core.run M (k + 1) s = .refused r := by
  show (match M.step s with
    | .next t => Host.Core.run M k t
    | .fault f => .fault f
    | .refused r => .refused r) = _
  rw [h]

theorem runs_zero {s t : State} : runs 0 s t ↔ s = t := by
  constructor
  · intro h; cases h; rfl
  · rintro rfl; rfl

/-- A run of one step more is a step and a run. -/
theorem runs_succ {n : Nat} {s t : State} : runs (n + 1) s t ↔ ∃ u, step s = .next u ∧ runs n u t := by
  cases h : step s with
  | next u =>
    have e := run_of_next (M := core) (k := n) h
    exact ⟨fun hr => ⟨u, rfl, e.symm.trans hr⟩, fun ⟨u', hu, hr⟩ => by cases hu; exact e.trans hr⟩
  | fault f =>
    have e := run_of_fault (M := core) (k := n) h
    exact ⟨fun hr => (by cases e.symm.trans hr), fun ⟨_, hu, _⟩ => (by cases hu)⟩
  | refused r =>
    have e := run_of_refused (M := core) (k := n) h
    exact ⟨fun hr => (by cases e.symm.trans hr), fun ⟨_, hu, _⟩ => (by cases hu)⟩

theorem transactions_succ {n : Nat} {s u : State} (h : step s = .next u) :
    transactions (n + 1) s = completed u.regPort ++ transactions n u := by
  rw [transactions, h]

theorem responses_succ {n : Nat} {s u : State} (h : step s = .next u) :
    responses (n + 1) s = u.rsp.toList ++ responses n u := by
  rw [responses, h]

end Sys2Proof
end

