-- ==== Sys2Proof/Tests/Slice0.lean ====
section
/-! SUPPORT. The model's own tests. Expected values are those of spec 95, named by section or vector; none comes from running the
model. `test_` theorems check one word, one condition or one step; `witness_` theorems show states and operands that meet the
hypotheses of the statements. -/

namespace Sys2Proof.Tests

open Machine

/-! ### Helpers -/

/-- The state an outcome goes on with. -/
def after (o : Outcome State) : Option State :=
  match o with
  | .next t => some t
  | .fault _ => none
  | .refused _ => none

/-- SEQ about to perform step `k` of the command `i`, with the given register space, on the reference board. -/
def inStep (i : Instr) (k : StepNo) (g : RegSpace) : State :=
  { State.reset with busy := true, cmd := encode i, stepNo := k, regs := g }

/-- The same with one move of another agent next. -/
def withMove (m : Move) (s : State) : State := { s with moves := [m] }

/-- The register space right after reset. -/
def blank : RegSpace := RegSpace.reset

/-- The start state of V3 to V6 (95 section 2.2), with the clock of port B on as it is after S1. -/
def v3 : RegSpace :=
  { blank with
    clkgate := 0x3
    banks := PortTable.set blank.banks .b { Bank.zero with pur := 0xA5, pdr := 0x5A, dir := 0xFF } }

/-- The start state of V20 (95 section 2.3). -/
def v20 : RegSpace :=
  { blank with
    clkgate := 0x3F
    banks := PortTable.set blank.banks .a { Bank.zero with is := 0xFF, ibe := 0xFF, pend := 0xFF }
    icPri := [(0, 7)] }

/-- The register space after V40 (95 section 2.5): a load of 5000, a compare value of 4999, running. -/
def v40 : RegSpace :=
  { blank with pwmCtl := 1, pwmLoad := 0x1388, pwmCmp := 0x1387, pwmCmpAct := 0x1387, pwmCount := 0x1388 }

/-! ### WellFormed -/

theorem test_wellFormed_port : Instr.wellFormed (.configurePin 6 0 .input 0) = false := by decide
theorem test_wellFormed_pin : Instr.wellFormed (.configurePin 5 8 .input 0) = false := by decide
theorem test_wellFormed_res : Instr.wellFormed (.configurePin 5 7 .input 3) = false := by decide
theorem test_wellFormed_attach_port : Instr.wellFormed (.attachInterrupt 6 0 0 .single) = false := by decide
theorem test_wellFormed_attach_pin : Instr.wellFormed (.attachInterrupt 5 8 0 .single) = false := by decide
theorem test_wellFormed_prio : Instr.wellFormed (.attachInterrupt 5 7 8 .single) = false := by decide
theorem test_wellFormed_bounds :
    Instr.wellFormed (.configurePin 5 7 .output 2) = true ∧ Instr.wellFormed (.attachInterrupt 5 7 7 .both) = true ∧
    Instr.wellFormed (.initPwm 0xFFFF 0xFFFF) = true := by decide

/-! ### Decoding (95 section 2.1) -/

theorem test_decode_configurePin :
    decode 0x100000004 = .command (.configurePin 0 0 .output 0) ∧
    decode 0x130600002 = .command (.configurePin 3 6 .input 2) ∧
    decode 0x1F0700006 = .command (.configurePin 15 7 .output 2) ∧
    decode 0x15FF00004 = .command (.configurePin 5 255 .output 0) := by decide
theorem test_decode_attachInterrupt :
    decode 0x200000000 = .command (.attachInterrupt 0 0 0 .single) ∧
    decode 0x2504FF000 = .command (.attachInterrupt 5 4 255 .single) ∧
    decode 0x250302001 = .command (.attachInterrupt 5 3 2 .both) := by decide
theorem test_decode_actForward : decode 0x400000000 = .command .actForward := by decide
theorem test_decode_actReverse : decode 0x500000000 = .command .actReverse := by decide
theorem test_decode_actStop : decode 0x600000000 = .command .actStop := by decide
theorem test_decode_initPwm : decode 0x813881387 = .command (.initPwm 5000 4999) := by decide
theorem test_decode_setDuty : decode 0x90000FFFF = .command (.setDuty 65535) := by decide
theorem test_decode_transmitByte : decode 0xC000000FF = .command (.transmitByte 0xFF) := by decide
theorem test_decode_receiveByte : decode 0xD00000000 = .command .receiveByte := by decide
theorem test_decode_reserved_opcodes :
    decode 0x000000000 = .illegal (.reservedOpcode 0x0) ∧ decode 0x300000000 = .illegal (.reservedOpcode 0x3) ∧
    decode 0x700000000 = .illegal (.reservedOpcode 0x7) ∧ decode 0xA00000000 = .illegal (.reservedOpcode 0xA) ∧
    decode 0xB00000000 = .illegal (.reservedOpcode 0xB) ∧ decode 0xE00000000 = .illegal (.reservedOpcode 0xE) ∧
    decode 0xFFFFFFFFF = .illegal (.reservedOpcode 0xF) := by decide
theorem test_decode_zero_bits :
    decode 0x150400009 = .illegal (.reservedBitsSet 1) ∧ decode 0x150480001 = .illegal (.reservedBitsSet 1) ∧
    decode 0x250403003 = .illegal (.reservedBitsSet 2) ∧ decode 0x250403801 = .illegal (.reservedBitsSet 2) ∧
    decode 0x580000000 = .illegal (.reservedBitsSet 5) ∧ decode 0x600000100 = .illegal (.reservedBitsSet 6) ∧
    decode 0x900010000 = .illegal (.reservedBitsSet 9) ∧ decode 0xC00000141 = .illegal (.reservedBitsSet 0xC) ∧
    decode 0xD00000001 = .illegal (.reservedBitsSet 0xD) := by decide
/-- 95 section 2.1, precedence: an illegal word with invalid operands is illegal. -/
theorem test_decode_precedence :
    decode 0x1F0FF0009 = .illegal (.reservedBitsSet 1) ∧ decode 0x260903002 = .illegal (.reservedBitsSet 2) := by decide
theorem test_decodeTableWord :
    decodeTableWord 40 0xD00000000 = some .receiveByte ∧ decodeTableWord 40 0x000000000 = none ∧
    decodeTableWord 40 0x1D00000000 = none := by decide
theorem test_withFetchWord :
    (after (step (State.reset.withFetchWord 40 0x150400001))).map (fun t => (t.busy, t.stepNo)) = some (true, 1) := by decide

/-! ### One step of each command -/

/-- V3, S2: the opposite resistor's bit 3 is cleared, the rest kept. -/
theorem test_configurePin_clears_opposite :
    (after (exec (.configurePin 1 3 .input 1) (inStep (.configurePin 1 3 .input 1) 2 v3))).map
      (fun t => ((t.regs.banks.get .b).pdr, (t.regs.banks.get .b).pur, t.stepNo)) = some (0x52, 0xA5, 3) := by decide
/-- V13: port, pin and resistor invalid: status 1. -/
theorem test_configurePin_rejects :
    (after (exec (.configurePin 6 8 .input 3) (inStep (.configurePin 6 8 .input 3) 0 v3))).map
      (fun t => (t.rsp, t.busy, t.regs)) = some (some ⟨1, 0⟩, false, v3) := by decide
/-- V20, S3: ICR clears the one flag. -/
theorem test_attachInterrupt_clears_pending :
    (after (exec (.attachInterrupt 0 0 0 .single) (inStep (.attachInterrupt 0 0 0 .single) 3 v20))).map
      (fun t => ((t.regs.banks.get .a).pend, t.regPort)) = some (0xFE, .writing (.gpio .a .icr) 1 1 true) := by decide
/-- V23: the line of port F on the reference board is 30. -/
theorem test_attachInterrupt_enables_line :
    (after (exec (.attachInterrupt 5 4 3 .both) (inStep (.attachInterrupt 5 4 3 .both) 6 v20))).map
      (fun t => (t.regs.icEn, t.rsp)) = some ([(30, 1)], some ⟨0, 0⟩) := by decide
/-- 95 section 2.4, row `10` ACT_FORWARD: after S1 `00`. -/
theorem test_actForward_breaks_first :
    (after (exec .actForward (inStep .actForward 1 { blank with actDrv := 2 }))).map
      (fun t => (t.regs.actDrv, t.regPort)) = some (0, .writing .actDrv 2 0 true) := by decide
/-- 95 section 2.4, row `00` ACT_FORWARD: after S2 `01`. -/
theorem test_actForward_makes :
    (after (exec .actForward (inStep .actForward 2 blank))).map
      (fun t => (t.regs.actDrv, t.rsp)) = some (1, some ⟨0, 0⟩) := by decide
/-- 95 section 2.4, row `01` ACT_REVERSE: after S1 `00`. -/
theorem test_actReverse_breaks_first :
    (after (exec .actReverse (inStep .actReverse 1 { blank with actDrv := 1 }))).map
      (fun t => (t.regs.actDrv, t.regPort)) = some (0, .writing .actDrv 1 0 true) := by decide
/-- 95 section 2.4, row `00` ACT_REVERSE: after S2 `10`. -/
theorem test_actReverse_makes :
    (after (exec .actReverse (inStep .actReverse 2 blank))).map
      (fun t => (t.regs.actDrv, t.rsp)) = some (2, some ⟨0, 0⟩) := by decide
/-- 95 section 2.4, row `11` ACT_STOP: `00`; bits 31:2 are not written. -/
theorem test_actStop_clears_both :
    (after (exec .actStop (inStep .actStop 1 { blank with actDrv := 0xF7 }))).map
      (fun t => (t.regs.actDrv, t.rsp)) = some (0xF4, some ⟨0, 0⟩) := by decide
/-- V41, S3: a compare value of 200 with a load of 100 is written as 100. -/
theorem test_initPwm_clamps :
    (after (exec (.initPwm 100 200) (inStep (.initPwm 100 200) 3 { blank with pwmLoad := 100 }))).map
      (fun t => (t.regs.pwmCmp, t.regPort)) = some (0x64, .writing .pwmCmp 0xFFFF 0x64 true) := by decide
/-- V40, S4: the start includes a reload. -/
theorem test_initPwm_starts :
    (after (exec (.initPwm 5000 4999) (inStep (.initPwm 5000 4999) 4 { blank with pwmLoad := 5000, pwmCmp := 4999 }))).map
      (fun t => (t.regs.pwmCtl, t.regs.pwmCmpAct, t.regs.pwmCount)) = some (1, 4999, 5000) := by decide
/-- V55, S1: the upper bits of the read are ignored. -/
theorem test_setDuty_reads_load :
    (after (exec (.setDuty 6000) (inStep (.setDuty 6000) 1 { blank with pwmLoad := 0xABCD1388 }))).map
      (fun t => (t.tmp, t.regPort)) = some (0x1388, .reading .pwmLoad (some 0xABCD1388)) := by decide
/-- V52, S2: 5001 is clamped to 5000; the active compare value stays (V56). -/
theorem test_setDuty_clamps :
    (after (exec (.setDuty 5001) { inStep (.setDuty 5001) 2 v40 with tmp := 5000 })).map
      (fun t => (t.regs.pwmCmp, t.regs.pwmCmpAct, t.rsp)) = some (0x1388, 0x1387, some ⟨0, 0⟩) := by decide
/-- V61, S1: TXRDY = 0 polls again. -/
theorem test_transmitByte_polls :
    (after (exec (.transmitByte 0x41) (inStep (.transmitByte 0x41) 1 { blank with rxq := [1] }))).map
      (fun t => (t.stepNo, t.regPort)) = some (1, .reading .uartFlags (some 2)) := by decide
/-- V60, S2: one write of the byte. -/
theorem test_transmitByte_sends :
    (after (exec (.transmitByte 0x41) (inStep (.transmitByte 0x41) 2 { blank with txRdy := true }))).map
      (fun t => (t.regs.txLog, t.regPort, t.rsp)) =
      some ([0x41], .writing .uartData 0xFF 0x41 true, some ⟨0, 0⟩) := by decide
/-- V59: RECEIVE_BYTE goes on with flags 0x2. -/
theorem test_receiveByte_polls :
    (after (exec .receiveByte (inStep .receiveByte 1 { blank with rxq := [0x5A] }))).map
      (fun t => (t.stepNo, t.regPort)) = some (2, .reading .uartFlags (some 2)) := by decide
/-- V69: the upper bits of the data read are ignored. -/
theorem test_receiveByte_takes :
    (after (exec .receiveByte (inStep .receiveByte 2 { blank with rxq := [0x5A, 7], dataHi := 0xFFFFFF }))).map
      (fun t => (t.rsp, t.regs.rxq, t.regPort)) =
      some (some ⟨0, 0x5A⟩, [7], .reading .uartData (some 0xFFFFFF5A)) := by decide
/-- V71: reset in the middle of a command: no response, idle, the register space as it was. -/
theorem test_reset_midway :
    (after (step (withMove (.reset false 0 0) (inStep (.configurePin 1 3 .input 1) 3 v3)))).map
      (fun t => (t.busy, t.rsp, t.regs)) = some (false, none, v3) := by decide

/-! ### Witnesses: the hypotheses of every statement are met

SpecWordsDecode, ReservedEncodingsIllegal, FlagsReadShowsReadiness, ResetLeavesIdleAndStopped and OutsideBitsNeverMatter have no
hypotheses; `test_decode_reserved_opcodes` and `test_decode_zero_bits` show words on each side of the second. -/

/-- The invariant of a state on the reference board, from its parts. -/
theorem inv_reference {s : State} (hb : s.board = Board.reference) (he : s.regs.icEn.wf) (hp : s.regs.icPri.wf)
    (heb : LineFile.below 32 s.regs.icEn) (hpb : LineFile.below 32 s.regs.icPri)
    (h : s.busy = true → sequencerInv s) (hport : waiting s.regPort = .idle) : Inv s :=
  ⟨by rw [hb]; exact Board.reference_wf, he, hp, by rw [hb]; exact heb, by rw [hb]; exact hpb, h, .inl hport⟩

/-- The register space in which CONFIGURE_PIN F, 4, IN, PU is at S5 (95 section 1.1). -/
def f4 : RegSpace :=
  { blank with clkgate := 0x20, banks := PortTable.set blank.banks .f { Bank.zero with pur := 0x10 } }

/-- The register space in which ATTACH_INTERRUPT F, 4, 3, BOTH is at S6 (95 section 1.2). -/
def f4Attached : RegSpace :=
  { blank with
    clkgate := 0x20
    banks := PortTable.set blank.banks .f { Bank.zero with ibe := 0x10, im := 0x10 }
    icPri := [(30, 3)] }

def configureF4 : Instr := .configurePin 5 4 .input 1
def attachF4 : Instr := .attachInterrupt 5 4 3 .both

theorem inv_reset : Inv State.reset :=
  inv_reference rfl (by decide) (by decide) (by decide) (by decide) (fun h => by cases h) rfl

theorem inv_configureF4 : Inv (inStep configureF4 5 f4) :=
  inv_reference rfl (by decide) (by decide) (by decide) (by decide)
    (fun _ => Or.inr ⟨.f, 4, .pullUp, rfl, by simp only [configureProgress, oppositeOff, requestedOn]; decide⟩) rfl

theorem inv_attachF4 : Inv (inStep attachF4 6 f4Attached) :=
  inv_reference rfl (by decide) (by decide) (by decide) (by decide)
    (fun _ => Or.inr ⟨.f, 4, rfl, by simp only [attachProgress]; decide⟩) rfl

theorem inv_initPwm :
    Inv (inStep (.initPwm 100 200) 4 { blank with pwmLoad := 100, pwmCmp := 100 }) :=
  inv_reference rfl (by decide) (by decide) (by decide) (by decide)
    (fun _ => show commandProgress (.initPwm 100 200) 4 _ by simp only [commandProgress]; decide) rfl

theorem inv_setDuty : Inv { inStep (.setDuty 5001) 2 v40 with tmp := 5000 } :=
  inv_reference rfl (by decide) (by decide) (by decide) (by decide)
    (fun _ => show commandProgress (.setDuty 5001) 2 _ by simp only [commandProgress]; decide) rfl

/-- Both branches of the invariant's use: the unclocked attachment at S1. -/
theorem inv_attachUnclocked : Inv (inStep attachF4 1 blank) :=
  inv_reference rfl (by decide) (by decide) (by decide) (by decide)
    (fun _ => Or.inr ⟨.f, 4, rfl, by simp only [attachProgress]; decide⟩) rfl

theorem witness_EncodingFunctionRoundTrip : decode 0x150400001 = .command configureF4 := by decide

theorem witness_DecodeByMaskAndMatch :
    (0x100000004 : CmdWord) &&& 0xF000FFFF8 = 0x100000000 ∧ (0x240707001 : CmdWord) &&& 0xF00000FFE = 0x200000000 ∧
    (0x8FFFFFFFF : CmdWord) &&& 0xF00000000 = 0x800000000 ∧ (0x90000FFFF : CmdWord) &&& 0xFFFFF0000 = 0x900000000 ∧
    (0xC000000FF : CmdWord) &&& 0xFFFFFFF00 = 0xC00000000 ∧ decode 0 = .illegal (.reservedOpcode 0) := by decide

/-- The last clause but one at both its sides: a register other than PWM.CTL, and PWM.CTL. -/
theorem witness_MaskedWriteTouchesOnlyItsBits :
    (∃ t w w' w'', State.reset.regs.icEn.wf ∧ State.reset.regs.icPri.wf ∧
      memWriteMasked .actDrv 0x3 0x1 State.reset = .next t ∧
      loadReg .actDrv State.reset.regs = .next (w, State.reset.regs) ∧ loadReg .actDrv t.regs = .next (w', t.regs) ∧
      loadReg (.icEn 31) State.reset.regs = .next (w'', State.reset.regs)) ∧
    ∃ t, memWriteMasked .pwmCtl 0x3 0x1 State.reset = .next t :=
  ⟨⟨_, _, _, _, by decide, by decide, rfl, rfl, rfl, rfl⟩, _, rfl⟩

theorem witness_IcrWriteOneToClear : clockOn Board.reference v20 .a = true ∧ clockOn Board.reference v20 .f = true := by decide

theorem witness_LineRegistersReadAfterWrite :
    LineFile.wf [] ∧ LineFile.wf [(30, 3)] ∧ LineFile.wf [(0, 7), (30, 0xFFFFFFFF)] := by decide

theorem witness_LineRegistersCanonical :
    ∃ f f' : LineFile, f ≠ [] ∧ f.wf ∧ f'.wf ∧ ∀ l, lineRead f l = lineRead f' l :=
  ⟨[(30, 3)], lineWrite [] 30 3, by decide, by decide, by decide, fun _ => rfl⟩

theorem witness_AcceptanceOfCommand :
    (∃ s : State, nextMove s = .seq ∧ s.busy = false ∧ s.cmdPort = some 0x400000000) ∧
    ∃ s t : State, nextMove s = .seq ∧ s.busy = true ∧ step s = .next t :=
  ⟨⟨{ State.reset with cmdPort := some 0x400000000 }, rfl, rfl, rfl⟩, ⟨inStep .actStop 1 blank, _, rfl, rfl, rfl⟩⟩

theorem witness_IdleSequencerWaits :
    nextMove State.reset = .seq ∧ State.reset.busy = false ∧ State.reset.cmdPort = none := ⟨rfl, rfl, rfl⟩

theorem witness_StepRunsDecodedCommand :
    nextMove (inStep configureF4 5 f4) = .seq ∧ (inStep configureF4 5 f4).busy = true ∧
      decode (inStep configureF4 5 f4).cmd = .command configureF4 := ⟨rfl, rfl, by decide⟩

theorem witness_IllegalWordRejected :
    ∃ s : State, nextMove s = .seq ∧ s.busy = true ∧ s.stepNo = 0 ∧ decode s.cmd = .illegal (.reservedOpcode 0xF) :=
  ⟨{ inStep .actStop 0 blank with cmd := 0xFFFFFFFFF }, rfl, rfl, rfl, by decide⟩

/-- The bounds of the check: the largest valid operands, and the smallest invalid one of each. -/
theorem witness_ConfigurePinValidation :
    (inStep configureF4 0 blank).stepNo = 0 ∧
    ((5#4).toNat ≤ 5 ∧ (7#8).toNat ≤ 7 ∧ 2#2 ≠ 3) ∧ ¬ (6#4).toNat ≤ 5 ∧ ¬ (8#8).toNat ≤ 7 ∧ ¬ (3#2 ≠ 3) := by decide

theorem witness_ConfigurePinSteps :
    portSel 5 = some .f ∧ portSel 0 = some .a ∧ pinSel 7 = some 7 ∧ pinSel 0 = some 0 ∧
    resSel 0 = some .none ∧ resSel 1 = some .pullUp ∧ resSel 2 = some .pullDown ∧
    (∀ k ∈ [(1 : StepNo), 2, 3, 4, 5], (inStep configureF4 k f4).stepNo = k) ∧
    clockOn (inStep configureF4 2 f4).board (inStep configureF4 2 f4).regs .f = true := by decide

theorem witness_ConfigurePinWholeCommand :
    (resSel 0 = some .none ∧ Accepted (.configurePin 5 4 .input 0) (inStep (.configurePin 5 4 .input 0) 0 blank)) ∧
    (resSel 1 = some .pullUp ∧ Accepted configureF4 (inStep configureF4 0 blank)) ∧
    (resSel 2 = some .pullDown ∧ Accepted (.configurePin 5 7 .output 2) (inStep (.configurePin 5 7 .output 2) 0 blank)) ∧
    portSel 5 = some .f ∧ pinSel 4 = some 4 ∧ pinSel 7 = some 7 ∧
    (configureOperands 5 8 1 = none ∧ Accepted (.configurePin 5 8 .input 1) (inStep (.configurePin 5 8 .input 1) 0 blank)) :=
  ⟨⟨rfl, rfl, rfl, rfl, rfl⟩, ⟨rfl, rfl, rfl, rfl, rfl⟩, ⟨rfl, rfl, rfl, rfl, rfl⟩, rfl, rfl, rfl, ⟨rfl, rfl, rfl, rfl, rfl⟩⟩

theorem witness_ConfigurePinEndState :
    Inv (inStep configureF4 5 f4) ∧ (inStep configureF4 5 f4).busy = true ∧
      decode (inStep configureF4 5 f4).cmd = .command configureF4 ∧ (inStep configureF4 5 f4).stepNo = 5 ∧
      configureOperands 5 4 1 = some (.f, 4, .pullUp) :=
  ⟨inv_configureF4, rfl, by decide, rfl, rfl⟩

theorem witness_ResistorsNeverBothEnabled :
    ∃ t, Inv (inStep configureF4 5 f4) ∧ decode (inStep configureF4 5 f4).cmd = .command configureF4 ∧
      exec configureF4 (inStep configureF4 5 f4) = .next t ∧
      ¬ (((inStep configureF4 5 f4).regs.banks.get .f).pur.getLsbD 4 = true ∧
        ((inStep configureF4 5 f4).regs.banks.get .f).pdr.getLsbD 4 = true) :=
  ⟨_, inv_configureF4, by decide, rfl, by decide⟩

theorem witness_AttachInterruptValidation :
    (inStep attachF4 0 blank).stepNo = 0 ∧
    ((5#4).toNat ≤ 5 ∧ (7#8).toNat ≤ 7 ∧ (7#8).toNat ≤ 7) ∧ ¬ (6#4).toNat ≤ 5 ∧ ¬ (8#8).toNat ≤ 7 := by decide

theorem witness_AttachInterruptSteps :
    portSel 5 = some .f ∧ pinSel 7 = some 7 ∧ (7#8).toNat ≤ 7 ∧
    (∀ k ∈ [(1 : StepNo), 2, 3, 4, 5, 6], (inStep attachF4 k f4).stepNo = k) ∧
    clockOn (inStep attachF4 1 f4).board (inStep attachF4 1 f4).regs .f = true ∧
    (inStep attachF4 5 f4).board.irqLine .f < (inStep attachF4 5 f4).board.nlines := by decide

theorem witness_AttachInterruptWholeCommand :
    Accepted attachF4 (inStep attachF4 0 f4) ∧ portSel 5 = some .f ∧ pinSel 4 = some 4 ∧ (3#8).toNat ≤ 7 ∧
    clockOn (inStep attachF4 0 f4).board (inStep attachF4 0 f4).regs .f = true ∧
    (inStep attachF4 0 f4).board.irqLine .f < (inStep attachF4 0 f4).board.nlines ∧
    (attachOperands 5 4 8 = none ∧ Accepted (.attachInterrupt 5 4 8 .both) (inStep (.attachInterrupt 5 4 8 .both) 0 f4)) :=
  ⟨⟨rfl, rfl, rfl, rfl⟩, rfl, rfl, by decide, by decide, by decide, rfl, rfl, rfl, rfl, rfl⟩

theorem witness_AttachInterruptEndState :
    Inv (inStep attachF4 6 f4Attached) ∧ (inStep attachF4 6 f4Attached).busy = true ∧
      decode (inStep attachF4 6 f4Attached).cmd = .command attachF4 ∧ (inStep attachF4 6 f4Attached).stepNo = 6 ∧
      attachOperands 5 4 3 = some (.f, 4) :=
  ⟨inv_attachF4, rfl, by decide, rfl, rfl⟩

theorem witness_AttachToUnclockedPortFaults :
    attachOperands 5 4 3 = some (.f, 4) ∧ (inStep attachF4 1 blank).stepNo = 1 ∧
      clockOn (inStep attachF4 1 blank).board (inStep attachF4 1 blank).regs .f = false := by decide

theorem witness_ActuatorSteps :
    (∀ k ∈ [(0 : StepNo), 1, 2], (inStep .actForward k blank).stepNo = k) ∧
    (0x400000001 : CmdWord).extractLsb' 32 4 ∈ [0x4#4, 0x5#4, 0x6#4] ∧ (0x400000001 : CmdWord).extractLsb' 0 32 ≠ 0 ∧
    (0x680000000 : CmdWord).extractLsb' 32 4 ∈ [0x4#4, 0x5#4, 0x6#4] ∧ (0x680000000 : CmdWord).extractLsb' 0 32 ≠ 0 := by decide

theorem witness_ActuatorTransitionTable :
    Accepted .actForward (inStep .actForward 0 blank) ∧ Accepted .actReverse (inStep .actReverse 0 blank) ∧
    Accepted .actStop (inStep .actStop 0 { blank with actDrv := 3 }) :=
  ⟨⟨rfl, rfl, rfl, rfl⟩, ⟨rfl, rfl, rfl, rfl⟩, ⟨rfl, rfl, rfl, rfl⟩⟩

/-- From reverse, with a byte arriving first, ACT_FORWARD runs to its end. -/
theorem witness_DriveLinesNeverBothAsserted :
    ∃ s t : State, Inv s ∧ driveLines s.regs = 0b10 ∧ (∀ m ∈ s.moves, isOtherWriteTo .actDrv m = false) ∧
      runs 4 s t ∧ driveLines t.regs = 0b01 :=
  ⟨withMove (.rxByte 1) (inStep .actForward 0 { blank with actDrv := 2 }), _,
    inv_reference rfl (by decide) (by decide) (by decide) (by decide)
      (fun _ => show commandProgress .actForward 0 _ by simp only [commandProgress]; decide) rfl,
    by decide, by decide, rfl, by decide⟩

theorem witness_InitPwmSteps :
    (∀ k ∈ [(0 : StepNo), 1, 2, 3, 4], (inStep (.initPwm 100 200) k blank).stepNo = k) ∧
    (inStep (.initPwm 100 200) 4 blank).regs.pwmCtl.getLsbD 0 = false := by decide

theorem witness_InitPwmWholeCommand :
    Accepted (.initPwm 100 200) (inStep (.initPwm 100 200) 0 blank) ∧
    Accepted (.initPwm 100 100) (inStep (.initPwm 100 100) 0 v40) ∧ (0x8FFFFFFFF : CmdWord).extractLsb' 32 4 = 0x8#4 :=
  ⟨⟨rfl, rfl, rfl, rfl⟩, ⟨rfl, rfl, rfl, rfl⟩, by decide⟩

/-- Both clauses of the duty cycle: load 100, and load 0 (V42). -/
theorem witness_InitPwmEndState :
    Inv (inStep (.initPwm 100 200) 4 { blank with pwmLoad := 100, pwmCmp := 100 }) ∧
    Inv (inStep (.initPwm 0 5) 4 blank) ∧ decode (encode (.initPwm 0 5)) = .command (.initPwm 0 5) ∧
    decode (encode (.initPwm 100 200)) = .command (.initPwm 100 200) :=
  ⟨inv_initPwm,
    inv_reference rfl (by decide) (by decide) (by decide) (by decide)
      (fun _ => show commandProgress (.initPwm 0 5) 4 _ by simp only [commandProgress]; decide) rfl,
    by decide, by decide⟩

theorem witness_SetDutySteps : ∀ k ∈ [(0 : StepNo), 1, 2], (inStep (.setDuty 7) k v40).stepNo = k := by decide

theorem witness_SetDutyWholeCommand :
    Accepted (.setDuty 2500) (inStep (.setDuty 2500) 0 v40) ∧
    (0x900010000 : CmdWord).extractLsb' 32 4 = 0x9#4 ∧ (0x900010000 : CmdWord).extractLsb' 16 16 ≠ 0 :=
  ⟨⟨rfl, rfl, rfl, rfl⟩, by decide, by decide⟩

/-- Both clauses at their boundary: 5000 and 5001 with a load of 5000 (V51, V52). -/
theorem witness_SetDutyClamps :
    Inv { inStep (.setDuty 5001) 2 v40 with tmp := 5000 } ∧ Inv { inStep (.setDuty 5000) 2 v40 with tmp := 5000 } ∧
    (pwmField v40.pwmLoad).toNat < (5001 : PwmWord).toNat ∧ (5000 : PwmWord).toNat ≤ (pwmField v40.pwmLoad).toNat ∧
    decode (encode (.setDuty 5001)) = .command (.setDuty 5001) ∧
    decode (encode (.setDuty 5000)) = .command (.setDuty 5000) :=
  ⟨inv_setDuty,
    inv_reference rfl (by decide) (by decide) (by decide) (by decide)
      (fun _ => show commandProgress (.setDuty 5000) 2 _ by simp only [commandProgress]; decide) rfl,
    by decide, by decide, by decide, by decide⟩

theorem witness_ReloadStep :
    nextMove (withMove .reload (inStep .actStop 1 v40)) = .reload ∧ v40.pwmCtl.getLsbD 0 = true ∧
    nextMove (withMove .reload State.reset) = .reload ∧ State.reset.regs.pwmCtl.getLsbD 0 = false := by decide

/-- Both clauses: the start of a stopped generator, and a write of EN = 1 while it runs. -/
theorem witness_GeneratorStartReloads :
    (blank.pwmCtl.getLsbD 0 = false ∧ (merge blank.pwmCtl 0x3 0x1).getLsbD 0 = true) ∧
    (v40.pwmCtl.getLsbD 0 = true ∧ (merge v40.pwmCtl 0x3 0x1).getLsbD 0 = true) ∧
    (merge v40.pwmCtl 0x3 0x0).getLsbD 0 = false := by decide

/-- V56: a new compare value is written while the old one is in use. -/
theorem witness_NoMidCycleEffect :
    ∃ s t : State, step s = .next t ∧ nextMove s ≠ .reload ∧ isPlatformReset (nextMove s) = false ∧
      ¬ (pwmEnabled s.regs.pwmCtl = false ∧ pwmEnabled t.regs.pwmCtl = true) ∧
      pwmField s.regs.pwmCmp = 4999 ∧ pwmField t.regs.pwmCmp = 2500 ∧ t.regs.pwmCmpAct = 4999 :=
  ⟨{ inStep (.setDuty 2500) 2 v40 with tmp := 5000 }, _, rfl, by decide, by decide, by decide, by decide, by decide, by decide⟩

theorem witness_TransmitByteSteps :
    (∀ k ∈ [(0 : StepNo), 1, 2], (inStep (.transmitByte 0x41) k blank).stepNo = k) ∧
    (inStep (.transmitByte 0x41) 2 { blank with txRdy := true }).regs.txRdy = true := by decide

theorem witness_ReceiveByteSteps :
    (∀ k ∈ [(0 : StepNo), 1, 2], (inStep .receiveByte k blank).stepNo = k) ∧
    (inStep .receiveByte 2 { blank with rxq := [0x5A] }).regs.rxq = 0x5A :: [] := by decide

/-- Both commands of V58. -/
theorem witness_SerialCommandsPollForever :
    (let s := inStep (.transmitByte 0x41) 1 { blank with rxq := [1] }
     s.busy = true ∧ s.stepNo = 1 ∧ s.moves = [] ∧ s.cmd = encode (.transmitByte 0x41) ∧ s.regs.txRdy = false) ∧
    (let s := inStep .receiveByte 1 { blank with txRdy := true }
     s.busy = true ∧ s.stepNo = 1 ∧ s.moves = [] ∧ s.cmd = encode .receiveByte ∧ s.regs.rxq = []) :=
  ⟨⟨rfl, rfl, rfl, rfl, rfl⟩, ⟨rfl, rfl, rfl, rfl, rfl⟩⟩

/-- V61: two reads of 0, then one of 1. -/
theorem witness_TransmitWaitsThenSends :
    let s := { inStep (.transmitByte 0x41) 1 blank with moves := [.seq, .seq, .txFree] }
    s.busy = true ∧ s.stepNo = 1 ∧ s.cmd = encode (.transmitByte 0x41) ∧ s.regs.txRdy = false ∧
      s.moves = List.replicate 2 .seq ++ [.txFree] := ⟨rfl, rfl, rfl, rfl, rfl⟩

/-- All cases: a poll, SEQ's write, another agent's write, and a write that lands in a reset. -/
theorem witness_TransmitLogGrowsByWrites :
    (∃ t, step (inStep (.transmitByte 0x41) 1 { blank with txRdy := true }) = .next t) ∧
    (∃ t, step (inStep (.transmitByte 0x41) 2 { blank with txRdy := true }) = .next t ∧ t.regs.txLog = [0x41]) ∧
    (∃ t, step (withMove (.otherWrite .uartData 0xFF 0x42 (PortTable.const Bank.zero))
      { State.reset with regs := { blank with txRdy := true } }) = .next t ∧ t.regs.txLog = [0x42]) ∧
    ∃ t, step (withMove (.reset true 0 0) (inStep (.transmitByte 0x41) 2 { blank with txRdy := true })) = .next t ∧
      t.regs.txLog = [0x41] :=
  ⟨⟨_, rfl⟩, ⟨_, rfl, rfl⟩, ⟨_, rfl, rfl⟩, ⟨_, rfl, rfl⟩⟩

/-- All cases: nothing, an arrival, a byte SEQ takes, a byte another agent takes, a read that lands in a reset. -/
theorem witness_ReceiveQueueDiscipline :
    (∃ t, step State.reset = .next t ∧ t.regs.rxq = []) ∧
    (∃ t, step (withMove (.rxByte 7) State.reset) = .next t ∧ t.regs.rxq = [7]) ∧
    (∃ t, step (inStep .receiveByte 2 { blank with rxq := [0x5A, 7] }) = .next t ∧ t.regs.rxq = [7] ∧
      t.rsp = some ⟨0, 0x5A⟩) ∧
    (∃ t, step (withMove (.otherRead .uartData) { State.reset with regs := { blank with rxq := [0x5A, 7] } }) = .next t ∧
      t.regs.rxq = [7]) ∧
    ∃ t, step (withMove (.reset true 0 0) (inStep .receiveByte 2 { blank with rxq := [0x5A, 7] })) = .next t ∧
      t.regs.rxq = [7] :=
  ⟨⟨_, rfl, rfl⟩, ⟨_, rfl, rfl⟩, ⟨_, rfl, rfl, rfl⟩, ⟨_, rfl, rfl⟩, ⟨_, rfl, rfl⟩⟩

theorem witness_InvariantAtReset : Board.reference.WF := Board.reference_wf

theorem witness_StepKeepsInvariant :
    ∃ t, Inv (inStep configureF4 5 f4) ∧ step (inStep configureF4 5 f4) = .next t := ⟨_, inv_configureF4, rfl⟩

/-- Both cases: a step of SEQ, and the fault. -/
theorem witness_SequencerStopsOnlyUnclocked :
    (∃ t, Inv (inStep configureF4 5 f4) ∧ seqMove (inStep configureF4 5 f4) = .next t) ∧
    Inv (inStep attachF4 1 blank) ∧ seqMove (inStep attachF4 1 blank) = .fault (.unclockedAccess .f) :=
  ⟨⟨_, inv_configureF4, rfl⟩, inv_attachUnclocked, rfl⟩

theorem witness_CommandAccessRights :
    ∃ t, (inStep configureF4 5 f4).regPort = .idle ∧ exec configureF4 (inStep configureF4 5 f4) = .next t ∧
      t.regPort = .writing (.gpio .f .den) 0x10 0x10 true := ⟨_, rfl, rfl, rfl⟩

theorem witness_CommandFrames :
    (∃ t, exec configureF4 (inStep configureF4 5 f4) = .next t) ∧
    (∃ t, exec attachF4 (inStep attachF4 6 f4Attached) = .next t) ∧
    (∃ t, exec .actForward (inStep .actForward 2 blank) = .next t) ∧
    (∃ t, exec .actReverse (inStep .actReverse 2 blank) = .next t) ∧
    (∃ t, exec .actStop (inStep .actStop 1 blank) = .next t) ∧
    (∃ t, exec (.initPwm 100 200) (inStep (.initPwm 100 200) 4 blank) = .next t) ∧
    (∃ t, exec (.setDuty 7) (inStep (.setDuty 7) 2 v40) = .next t) ∧
    (∃ t, exec (.transmitByte 1) (inStep (.transmitByte 1) 2 { blank with txRdy := true }) = .next t) ∧
    ∃ t, exec .receiveByte (inStep .receiveByte 2 { blank with rxq := [0x5A] }) = .next t :=
  ⟨⟨_, rfl⟩, ⟨_, rfl⟩, ⟨_, rfl⟩, ⟨_, rfl⟩, ⟨_, rfl⟩, ⟨_, rfl⟩, ⟨_, rfl⟩, ⟨_, rfl⟩, ⟨_, rfl⟩⟩

/-- Both commands; another pin of the same port and another port. -/
theorem witness_PinCommandsTouchOnePin :
    (∃ t w, exec configureF4 (inStep configureF4 5 f4) = .next t ∧ portSel 5 = some .f ∧ pinSel 4 = some 4 ∧
      bankRead ((inStep configureF4 5 f4).regs.banks.get .f) .den = some w ∧ (0 : Nat) ≠ (4 : Fin 8).val) ∧
    (∃ t, exec attachF4 (inStep attachF4 6 f4Attached) = .next t ∧ (29 : Nat) ≠ Board.reference.irqLine .f) ∧
    LineFile.wf (inStep attachF4 6 f4Attached).regs.icEn ∧ LineFile.wf (inStep attachF4 6 f4Attached).regs.icPri :=
  ⟨⟨_, _, rfl, rfl, rfl, rfl, by decide⟩, ⟨_, rfl, by decide⟩, by decide, by decide⟩

theorem witness_NoCommandDisarms :
    ∃ t, LineFile.wf (inStep attachF4 6 f4Attached).regs.icEn ∧ exec attachF4 (inStep attachF4 6 f4Attached) = .next t ∧
      clockOn Board.reference f4Attached .f = true ∧ (f4Attached.banks.get .f).im.getLsbD 4 = true :=
  ⟨_, by decide, rfl, by decide, by decide⟩

/-- Both clauses: a pin event, and V20's S3 clearing flag 0. -/
theorem witness_PendingFlagsSetAndCleared :
    nextMove (withMove (.pinEvent .a 7) State.reset) = .pinEvent .a 7 ∧
    ∃ t, nextMove (inStep (.attachInterrupt 0 0 0 .single) 3 v20) = .seq ∧
      step (inStep (.attachInterrupt 0 0 0 .single) 3 v20) = .next t ∧ (v20.banks.get .a).pend.getLsbD 0 = true ∧
      (t.regs.banks.get .a).pend.getLsbD 0 = false :=
  ⟨rfl, _, rfl, rfl, by decide, by decide⟩

theorem witness_ResponseEndsCommand :
    ∃ t, (inStep .receiveByte 2 { blank with rxq := [0x5A] }).busy = true ∧
      nextMove (inStep .receiveByte 2 { blank with rxq := [0x5A] }) = .seq ∧
      step (inStep .receiveByte 2 { blank with rxq := [0x5A] }) = .next t ∧ t.rsp = some ⟨0, 0x5A⟩ :=
  ⟨_, rfl, rfl, rfl, rfl⟩

/-- Both rejections: an invalid pin (V8), and an illegal word. -/
theorem witness_RejectionLeavesNoTrace :
    (∃ s t : State, s.busy = true ∧ nextMove s = .seq ∧ step s = .next t ∧ t.rsp = some ⟨1, 0⟩) ∧
    ∃ s t : State, s.busy = true ∧ nextMove s = .seq ∧ step s = .next t ∧ t.rsp = some ⟨2, 0⟩ :=
  ⟨⟨inStep (.configurePin 5 8 .input 1) 0 blank, _, rfl, rfl, rfl, rfl⟩,
    ⟨{ inStep .actStop 0 blank with cmd := 0xA00000000 }, _, rfl, rfl, rfl, rfl⟩⟩

/-- All three clauses: two withheld acknowledges, a pin event while the request is up, and SEQ's move. -/
theorem witness_HeldTransactionKeepsStep :
    (∃ s t : State, s.moves = List.replicate 2 .hold ++ [] ∧ runs 2 s t ∧ request s = .writing .actDrv 0x3 0x0 false) ∧
    (∃ s t : State, step s = .next t ∧ nextMove s = .pinEvent .a 7 ∧ t.regPort = .writing .actDrv 0x3 0x0 false) ∧
    ∃ s t : State, nextMove s = .seq ∧ step s = .next t ∧ t.regPort = .writing .actDrv 0x3 0x0 true :=
  ⟨⟨{ inStep .actStop 1 blank with moves := [.hold, .hold] }, _, rfl, rfl, by decide⟩,
    ⟨{ withMove (.pinEvent .a 7) (inStep .actStop 1 blank) with regPort := .writing .actDrv 0x3 0x0 false }, _, rfl, rfl, rfl⟩,
    ⟨inStep .actStop 1 blank, _, rfl, rfl, rfl⟩⟩

/-- An access to a port whose clock is off is requested while its acknowledge is withheld (log entry 33). -/
theorem test_held_unclocked :
    (after (step (withMove .hold (inStep attachF4 1 blank)))).map (fun t => (t.stepNo, t.regPort)) =
      some (1, .writing (.gpio .f .is) 0x10 0 false) := by decide

theorem witness_SecondWriterRefused :
    ∃ s : State, s.busy = true ∧ nextMove s = .otherWrite .actDrv 3 3 (PortTable.const Bank.zero) :=
  ⟨withMove (.otherWrite .actDrv 3 3 (PortTable.const Bank.zero)) (inStep .actStop 1 blank), rfl, rfl⟩

theorem witness_OnlySequencerAndResetMoveSequencer :
    ∃ s t : State, step s = .next t ∧ nextMove s ≠ .seq ∧ (∀ landed cmd tmp, nextMove s ≠ .reset landed cmd tmp) ∧
      isPlatformReset (nextMove s) = false :=
  ⟨withMove (.rxByte 1) (inStep .actStop 1 blank), _, rfl, by decide,
    fun _ _ _ h => (by cases h), by decide⟩

/-- Both clauses; the second at the first and the last identifier, and at a line that does not exist. -/
theorem witness_BoardNeverChanges :
    (∃ s t : State, step s = .next t) ∧ Board.reference.WF ∧
    Board.reference.address .sysClkgate = some 0 ∧ Board.reference.address .uartData = some 130 ∧
    Board.reference.address (.icEn 32) = none :=
  ⟨⟨State.reset, _, rfl⟩, Board.reference_wf, by decide, by decide, by decide⟩

/-- All three cases: the dropped transaction did not land, SEQ is idle, the word is illegal. -/
theorem witness_SequencerResetKeepsRegisters :
    (∃ s : State, nextMove s = .reset false 0xFFFFFFFFF 0xFFFF ∧ s.busy = true) ∧
    (∃ s : State, nextMove s = .reset true 0 0 ∧ s.busy = false) ∧
    ∃ s : State, nextMove s = .reset true 0 0 ∧ s.busy = true ∧ s.stepNo = 0 ∧
      decode s.cmd = .illegal (.reservedOpcode 0xF) :=
  ⟨⟨withMove (.reset false 0xFFFFFFFFF 0xFFFF) (inStep configureF4 5 f4), rfl, rfl⟩,
    ⟨withMove (.reset true 0 0) State.reset, rfl, rfl⟩,
    ⟨withMove (.reset true 0 0) { inStep .actStop 0 blank with cmd := 0xFFFFFFFFF }, rfl, rfl, rfl, by decide⟩⟩

/-- Both clauses: a transaction that lands, and one that is the fault of an unclocked port. -/
theorem witness_ResetMayLandTransaction :
    (∃ s t : State, nextMove s = .reset true 0 0 ∧ s.busy = true ∧ decode s.cmd = .command configureF4 ∧
      exec configureF4 s.openStep = .next t) ∧
    ∃ s : State, nextMove s = .reset true 0 0 ∧ s.busy = true ∧ decode s.cmd = .command attachF4 ∧
      exec attachF4 s.openStep = .fault (.unclockedAccess .f) :=
  ⟨⟨withMove (.reset true 0 0) (inStep configureF4 5 f4), _, rfl, rfl, by decide, rfl⟩,
    ⟨withMove (.reset true 0 0) (inStep attachF4 1 blank), rfl, rfl, by decide, rfl⟩⟩

/-- Contents with bits on both sides of the drive lines, and lines out of order: the first and the last of the board. -/
theorem witness_PlatformResetStopsActuator :
    let contents : RegSpace := { blank with actDrv := 0x80000007, icEn := [(31, 1), (0, 3)], icPri := [(31, 7)] }
    ∃ s t : State, nextMove s = .platformReset contents 0 0 ∧ driveLines s.regs = 0b01 ∧ 31 < s.board.nlines ∧
      step s = .next t ∧ lineRead t.regs.icEn 31 = 1 ∧ lineRead t.regs.icEn 0 = 3 ∧ t.regs.actDrv = 0x80000004 :=
  ⟨withMove (.platformReset { blank with actDrv := 0x80000007, icEn := [(31, 1), (0, 3)], icPri := [(31, 7)] } 0 0)
    (inStep .actStop 0 { blank with actDrv := 1 }), _, rfl, by decide, by decide, rfl, by decide, by decide, by decide⟩

end Sys2Proof.Tests
end

/-! SUPPORT AND PROOFS, family 10_state: the inversions of the moves of PLAT and of other agents, and the statements about the
drive lines (10 R56), the access rights (10 R54) and reset (10 R58). -/

namespace Sys2Proof.Machine

/-! ### What a move of another agent can do -/

/-- Inversion: another agent's write that answers a next state. -/
theorem otherWrite_next {r : RegId} {m v : RegWord} {lost : PortTable Bank} {s t : State}
    (h : otherWrite r m v lost s = .next t) :
    s.busy = false ∧ accessFault s.board s.regs r = none ∧
    ∃ g, storeReg (Config.txStaysReady s.draws) r m v s.regs = .next g ∧
      t = { s with regs := loseBanks s.board s.regs lost g, draws := drawsAfter r s.draws } := by
  unfold otherWrite at h
  split at h
  · cases h
  · rename_i hb
    split at h
    · cases h
    · rename_i ha
      obtain ⟨g, hg, e⟩ := bindNext_eq_next.mp h
      cases e
      exact ⟨Bool.eq_false_iff.mpr hb, ha, g, hg, rfl⟩

/-- Inversion: another agent's read that answers a next state. -/
theorem otherRead_next {r : RegId} {s t : State} (h : otherRead r s = .next t) :
    accessFault s.board s.regs r = none ∧ ∃ w g, loadReg r s.regs = .next (w, g) ∧ t = s.withRegs g := by
  unfold otherRead at h
  split at h
  · cases h
  · split at h
    · cases h
    · rename_i ha
      obtain ⟨⟨w, g⟩, hg, e⟩ := bindNext_eq_next.mp h
      cases e
      exact ⟨ha, w, g, hg, rfl⟩

/-- Inversion: after REQ presents a word, that word is at the command port and nothing else has changed. -/
theorem present_next {w : CmdWord} {s t : State} (h : present w s = .next t) : t = { s with cmdPort := some w } := by
  unfold present at h
  split at h
  · cases h; rfl
  · rename_i w' hw
    split at h
    · rename_i e; cases h; rw [e, ← hw]
    · cases h

/-- Inversion: a reset of WCS-RM that answers a next state drops the transaction, or lands it (70 R222). -/
theorem resetMove_next {landed : Bool} {cmd : CmdWord} {tmp : PwmWord} {s t : State}
    (h : resetMove landed cmd tmp s = .next t) :
    t = s.resetSeq cmd tmp ∨
    ∃ u, s.busy = true ∧ seqMove s = .next u ∧ t = { s with regs := u.regs, draws := u.draws }.resetSeq cmd tmp := by
  unfold resetMove at h
  split at h
  · rename_i hb
    obtain ⟨u, hu, e⟩ := bindNext_eq_next.mp h
    cases e
    exact .inr ⟨u, (Bool.and_eq_true_iff.mp hb).2, hu, rfl⟩
  · cases h; exact .inl rfl

/-- Inversion: SEQ's move performs a step of the command in CMD, rejects an illegal word, accepts a word, or waits. -/
theorem seqMove_next {s t : State} (h : seqMove s = .next t) :
    (s.busy = true ∧ ∃ i, decode s.cmd = .command i ∧ exec i s = .next t) ∨
    (s.busy = true ∧ s.stepNo = 0 ∧ (∃ e, decode s.cmd = .illegal e) ∧ t = s.respond statusIllegalCommand 0) ∨
    (s.busy = false ∧ ∃ w, s.cmdPort = some w ∧ t = s.accept w) ∨
    (s.busy = false ∧ s.cmdPort = none ∧ t = s) := by
  unfold seqMove at h
  split at h
  · rename_i hb
    split at h
    · exact .inl ⟨hb, _, by assumption, h⟩
    · unfold illegalStep raise at h
      split at h
      · cases h; exact .inr (.inl ⟨hb, by assumption, ⟨_, by assumption⟩, rfl⟩)
      · cases h
  · rename_i hb
    rw [Bool.not_eq_true] at hb
    split at h
    · cases h; exact .inr (.inr (.inl ⟨hb, _, by assumption, rfl⟩))
    · cases h; exact .inr (.inr (.inr ⟨hb, by assumption, rfl⟩))

/-- A read takes at most a byte from RXQ; the rest of the register space is as before (20 R67). -/
theorem loadReg_rxq_only {r : RegId} {g g' : RegSpace} {w : RegWord} (h : loadReg r g = .next (w, g')) :
    ∃ q, g' = { g with rxq := q } := by
  by_cases hr : r = .uartData
  · subst hr
    simp only [loadReg] at h
    split at h
    · cases h; exact ⟨_, rfl⟩
    · cases h
  · exact ⟨g.rxq, loadReg_space h hr⟩

/-- No move changes the board or the script. -/
theorem makeMove_keeps {m : Move} {s t : State} (h : makeMove m s = .next t) : t.board = s.board ∧ t.moves = s.moves := by
  cases m with
  | seq => exact seqMove_keeps h
  | present w => cases present_next h; exact ⟨rfl, rfl⟩
  | otherWrite r m v lost => obtain ⟨-, -, g, -, rfl⟩ := otherWrite_next h; exact ⟨rfl, rfl⟩
  | otherRead r => obtain ⟨-, w, g, -, rfl⟩ := otherRead_next h; exact ⟨rfl, rfl⟩
  | reset landed cmd tmp => obtain rfl | ⟨u, -, -, rfl⟩ := resetMove_next h <;> exact ⟨rfl, rfl⟩
  | _ => cases h; exact ⟨rfl, rfl⟩

/-- A step takes one move from the script. -/
theorem step_moves {s t : State} (h : step s = .next t) : t.moves = s.moves.tail := (makeMove_keeps h).2

theorem nextMove_eq_seq_or_mem (s : State) : nextMove s = .seq ∨ nextMove s ∈ s.moves := by
  unfold nextMove
  split
  · exact .inl rfl
  · rename_i e; rw [e]; exact .inr List.mem_cons_self

/-! ### The drive lines -/

theorem driveLines_getLsbD (g : RegSpace) {j : Nat} (h : j < 2) : (driveLines g).getLsbD j = g.actDrv.getLsbD j := by
  simp only [driveLines, BitVec.getLsbD_extractLsb', h, decide_true, Bool.true_and, Nat.zero_add]

theorem driveLines_congr {g g' : RegSpace} (h : g'.actDrv = g.actDrv) : driveLines g' = driveLines g := by
  rw [driveLines, h, driveLines]

/-- The lines are not both asserted when one of them is clear. -/
theorem driveLines_ne_both {g : RegSpace} {j : Nat} (hj : j < 2) (h : (driveLines g).getLsbD j = false) :
    driveLines g ≠ 0b11 := by
  intro e
  rw [e] at h
  interval_cases j <;> cases h

/-- A masked write that spares the two lines leaves them. -/
theorem driveLines_merge_kept (g : RegSpace) (m v : RegWord) (h : ∀ j, j < 2 → m.getLsbD j = false) :
    driveLines { g with actDrv := merge g.actDrv m v } = driveLines g :=
  merge_slice_kept _ _ _ 0 2 fun j hj => by rw [Nat.zero_add]; exact h j hj

/-- A write of zeros to both lines deasserts both, as in ACT_STOP (42 R145) and the reset of the platform (10 R59). -/
theorem driveLines_merge_stop (g : RegSpace) : driveLines { g with actDrv := merge g.actDrv 0x3 0x0 } = 0b00 :=
  (merge_slice_written _ _ _ 0 2 (by decide)).trans (by decide)

theorem driveLines_merge_clear (g : RegSpace) {off : Nat} (h : off < 2) :
    (driveLines { g with actDrv := merge g.actDrv (oneHot off) 0 }).getLsbD off = false := by
  rw [driveLines_getLsbD _ h, merge_clear_getLsbD _ _ _ (by omega), if_pos rfl]

/-- Asserting one line leaves the other. -/
theorem driveLines_merge_set_of_ne (g : RegSpace) {off on : Nat} (h : off < 2) (hne : off ≠ on) :
    (driveLines { g with actDrv := merge g.actDrv (oneHot on) (oneHot on) }).getLsbD off = (driveLines g).getLsbD off := by
  rw [driveLines_getLsbD _ h, driveLines_getLsbD _ h, merge_set_getLsbD _ _ _ (by omega), if_neg hne]

theorem driveLines_changeOutside (bd : Board) (r : RegId) (v : RegWord) (g : RegSpace) :
    driveLines (changeOutside bd r v g) = driveLines g := by
  cases r with
  | actDrv => exact driveLines_merge_kept g (~~~0x3) v (by decide)
  | icEn l => exact driveLines_congr (by simp only [changeOutside]; split <;> rfl)
  | icPri l => exact driveLines_congr (by simp only [changeOutside]; split <;> rfl)
  | _ => rfl

/-- Another agent's write elsewhere leaves the drive lines. -/
theorem driveLines_otherWrite {r : RegId} {m v : RegWord} {lost : PortTable Bank} {s t : State} (hr : r ≠ .actDrv)
    (h : otherWrite r m v lost s = .next t) : driveLines t.regs = driveLines s.regs := by
  obtain ⟨-, -, g, hg, rfl⟩ := otherWrite_next h
  obtain ⟨-, -, -, -, hact, -⟩ := storeReg_frame hg
  obtain ⟨b, hb⟩ := loseBanks_banks_only s.board s.regs lost g
  refine driveLines_congr ?_
  simp only [hb, hact hr]

/-- A masked write of a step to another register leaves ACT.DRV. -/
theorem WriteEffect.actDrv {r : RegId} {m v : RegWord} {s t : State} (h : WriteEffect r m v s t) (hr : r ≠ .actDrv) :
    t.regs.actDrv = s.regs.actDrv := by
  obtain ⟨-, -, -, -, -, -, -, -, hg⟩ := h.frame
  obtain ⟨-, -, -, -, hact, -⟩ := storeReg_frame hg
  exact hact hr

theorem StartEffect.actDrv {s t : State} (h : StartEffect s t) : t.regs.actDrv = s.regs.actDrv := by
  cases h <;> rfl

theorem writePwmCtl_actDrv (m v : RegWord) (g : RegSpace) : (writePwmCtl m v g).actDrv = g.actDrv := by
  obtain ⟨-, e⟩ | ⟨-, e⟩ := writePwmCtl_cases m v g <;> simp [e, reloadPwm]

/-- The commands that write ACT.DRV (10 R27). -/
def drivesActuator : Instr → Bool
  | .actForward => true
  | .actReverse => true
  | .actStop => true
  | _ => false

/-- No other command changes ACT.DRV. -/
theorem exec_keeps_actDrv {i : Instr} {s t : State} (hi : drivesActuator i = false) (h : exec i s = .next t) :
    t.regs.actDrv = s.regs.actDrv := by
  cases i with
  | configurePin port pin dir res =>
    obtain h | ⟨p, j, r, -, ⟨-, h⟩ | ⟨k, -, -, h⟩ | ⟨k, -, -, h⟩ | ⟨-, h⟩ | ⟨-, h⟩⟩ := configurePin_next h
    · exact h.actDrv
    all_goals exact h.actDrv nofun
  | attachInterrupt port pin prio edge =>
    obtain h | ⟨p, j, -, ⟨-, h⟩ | ⟨-, h⟩ | ⟨-, h⟩ | ⟨-, h⟩ | ⟨-, h⟩ | ⟨-, h⟩⟩ := attachInterrupt_next h
    · exact h.actDrv
    all_goals exact h.actDrv nofun
  | actForward => cases hi
  | actReverse => cases hi
  | actStop => cases hi
  | initPwm load cmp =>
    obtain ⟨-, rfl⟩ | ⟨-, rfl⟩ | ⟨-, rfl⟩ | ⟨-, rfl⟩ | ⟨-, rfl⟩ := initPwm_next h <;> simp [writePwmCtl_actDrv]
  | setDuty cmp => obtain ⟨-, rfl⟩ | ⟨-, rfl⟩ | ⟨-, rfl⟩ := setDuty_next h <;> rfl
  | transmitByte byte => obtain ⟨-, rfl⟩ | ⟨-, rfl⟩ | ⟨-, -, rfl⟩ := transmitByte_next h <;> rfl
  | receiveByte => obtain ⟨-, rfl⟩ | ⟨-, rfl⟩ | ⟨b, rest, -, -, rfl⟩ := receiveByte_next h <;> rfl

/-! ### Break before make -/

/-- What holds of the drive lines while the command `i` is about to perform step `k`: at S2 of a direction command the opposite
line is clear (42 R143, R144). -/
def driveProgress (i : Instr) (k : Nat) (lines : BitVec 2) : Prop :=
  match i with
  | .actForward => k = 2 → lines.getLsbD revLine = false
  | .actReverse => k = 2 → lines.getLsbD fwdLine = false
  | _ => True

theorem driveProgress_of_ne_two {i : Instr} {k : Nat} (hk : k ≠ 2) (lines : BitVec 2) : driveProgress i k lines := by
  cases i with
  | actForward => exact fun e => absurd e hk
  | actReverse => exact fun e => absurd e hk
  | _ => trivial

theorem driveProgress_of_not_drives {i : Instr} (hi : drivesActuator i = false) (k : Nat) (lines : BitVec 2) :
    driveProgress i k lines := by
  cases i with
  | actForward => cases hi
  | actReverse => cases hi
  | _ => trivial

/-- The part of the invariant that keeps the lines apart, and that needs nothing of the rest of it. -/
structure DriveSafe (s : State) : Prop where
  notBoth  : driveLines s.regs ≠ 0b11
  progress : s.busy = true → ∀ i, decode s.cmd = .command i → driveProgress i s.stepNo.toNat (driveLines s.regs)

/-- A step of a direction command: with `off` clear at S2 the lines stay apart, and S1 clears `off`. -/
theorem driveStep_keeps_apart {off on : Nat} {s t : State} (hoff : off < 2) (hne : off ≠ on)
    (h : driveStep off on s = .next t) (hn : driveLines s.regs ≠ 0b11)
    (hp : s.stepNo.toNat = 2 → (driveLines s.regs).getLsbD off = false) :
    driveLines t.regs ≠ 0b11 ∧ (t.busy = true → t.stepNo.toNat = 2 → (driveLines t.regs).getLsbD off = false) := by
  obtain ⟨-, rfl⟩ | ⟨-, rfl⟩ | ⟨h2, rfl⟩ := driveStep_next h
  · exact ⟨hn, fun _ e => by cases e⟩
  · have hc := driveLines_merge_clear s.regs hoff
    exact ⟨driveLines_ne_both hoff hc, fun _ _ => hc⟩
  · have hc := (driveLines_merge_set_of_ne s.regs hoff hne).trans (hp h2)
    exact ⟨driveLines_ne_both hoff hc, fun hb => by cases hb⟩

/-- Every step of every command keeps the lines apart (10 R56). -/
theorem exec_keeps_apart {i : Instr} {s t : State} (h : exec i s = .next t) (hn : driveLines s.regs ≠ 0b11)
    (hp : driveProgress i s.stepNo.toNat (driveLines s.regs)) :
    driveLines t.regs ≠ 0b11 ∧ (t.busy = true → driveProgress i t.stepNo.toNat (driveLines t.regs)) := by
  cases hi : drivesActuator i with
  | false =>
    rw [driveLines_congr (exec_keeps_actDrv hi h)]
    exact ⟨hn, fun _ => driveProgress_of_not_drives hi _ _⟩
  | true =>
    cases i with
    | actForward => exact driveStep_keeps_apart (by decide) (by decide) h hn hp
    | actReverse => exact driveStep_keeps_apart (by decide) (by decide) h hn hp
    | actStop =>
      refine ⟨?_, fun _ => trivial⟩
      obtain ⟨-, rfl⟩ | ⟨-, rfl⟩ := actStop_next h
      · exact hn
      · exact (driveLines_merge_stop s.regs).trans_ne (by decide)
    | _ => cases hi

theorem seqMove_keeps_driveSafe {s t : State} (hs : DriveSafe s) (h : seqMove s = .next t) : DriveSafe t := by
  obtain ⟨hb, i, hi, h⟩ | ⟨-, -, -, rfl⟩ | ⟨-, w, -, rfl⟩ | ⟨-, -, rfl⟩ := seqMove_next h
  · obtain ⟨hn, hp⟩ := exec_keeps_apart h hs.notBoth (hs.progress hb i hi)
    obtain ⟨hcmd, -⟩ := exec_keeps h
    refine ⟨hn, fun hbt j hj => ?_⟩
    rw [hcmd, hi] at hj
    cases hj
    exact hp hbt
  · exact ⟨hs.notBoth, fun hb => by cases hb⟩
  · exact ⟨hs.notBoth, fun _ i _ => driveProgress_of_ne_two (k := 0) (by decide) _⟩
  · exact hs

/-- A move that leaves SEQ and the drive lines as they are. -/
theorem DriveSafe.of_same {s t : State} (hs : DriveSafe s) (hb : t.busy = s.busy) (hc : t.cmd = s.cmd)
    (hk : t.stepNo = s.stepNo) (hl : driveLines t.regs = driveLines s.regs) : DriveSafe t :=
  ⟨hl ▸ hs.notBoth, by rw [hb, hc, hk, hl]; exact hs.progress⟩

/-- A move that leaves SEQ idle and the drive lines apart. -/
theorem DriveSafe.of_idle {t : State} (hb : t.busy = false) (hn : driveLines t.regs ≠ 0b11) : DriveSafe t :=
  ⟨hn, fun h => by rw [hb] at h; cases h⟩

/-- Every move of every agent but another agent's write to ACT.DRV keeps the lines apart. -/
theorem makeMove_keeps_driveSafe {m : Move} {s t : State} (hs : DriveSafe s) (hm : isOtherWriteTo .actDrv m = false)
    (h : makeMove m s = .next t) : DriveSafe t := by
  cases m with
  | seq => exact seqMove_keeps_driveSafe hs h
  | present w => cases present_next h; exact hs.of_same rfl rfl rfl rfl
  | reload =>
    cases h
    exact hs.of_same rfl rfl rfl (driveLines_congr (by simp only [State.withRegs_regs, reloadStep]; split <;> rfl))
  | countDown =>
    cases h
    exact hs.of_same rfl rfl rfl (driveLines_congr (by simp only [State.withRegs_regs, countStep]; split <;> rfl))
  | outsideField r v => cases h; exact hs.of_same rfl rfl rfl (driveLines_changeOutside _ r v _)
  | otherWrite r m v lost =>
    have hl := driveLines_otherWrite (by simpa [isOtherWriteTo] using hm) h
    obtain ⟨-, -, g, -, rfl⟩ := otherWrite_next h
    exact hs.of_same rfl rfl rfl hl
  | otherRead r =>
    obtain ⟨-, w, g, hg, rfl⟩ := otherRead_next h
    obtain ⟨q, rfl⟩ := loadReg_rxq_only hg
    exact hs.of_same rfl rfl rfl rfl
  | reset landed cmd tmp =>
    obtain rfl | ⟨u, -, hu, rfl⟩ := resetMove_next h
    · exact .of_idle rfl hs.notBoth
    · exact .of_idle rfl (seqMove_keeps_driveSafe hs hu).notBoth
  | platformReset contents cmd tmp =>
    cases h
    exact .of_idle rfl ((driveLines_merge_stop contents).trans_ne (by decide))
  | _ => cases h; exact hs.of_same rfl rfl rfl rfl

theorem step_keeps_driveSafe {s t : State} (hs : DriveSafe s) (hm : isOtherWriteTo .actDrv (nextMove s) = false)
    (h : step s = .next t) : DriveSafe t :=
  makeMove_keeps_driveSafe (s := s.openStep) ⟨hs.notBoth, hs.progress⟩ hm h

/-- The lines are apart after any number of steps of any interleaving without another agent's write to ACT.DRV. -/
theorem runs_keeps_driveSafe {n : Nat} {s t : State} (hs : DriveSafe s)
    (hm : ∀ m ∈ s.moves, isOtherWriteTo .actDrv m = false) (h : runs n s t) : DriveSafe t := by
  induction n generalizing s with
  | zero => exact runs_zero.mp h ▸ hs
  | succ n ih =>
    obtain ⟨u, hu, hr⟩ := runs_succ.mp h
    have hnext : isOtherWriteTo .actDrv (nextMove s) = false := by
      obtain e | hmem := nextMove_eq_seq_or_mem s
      · rw [e]; rfl
      · exact hm _ hmem
    refine ih (step_keeps_driveSafe hs hnext hu) (fun m hmem => hm m ?_) hr
    rw [step_moves hu] at hmem
    exact List.mem_of_mem_tail hmem

/-- The step tables of the invariant include what break before make has done (42 R143, R144). -/
theorem driveProgress_of_commandProgress {i : Instr} {k : Nat} {s : State} (h : commandProgress i k s) :
    driveProgress i k (driveLines s.regs) := by
  cases i with
  | actForward => exact fun hk => (driveLines_getLsbD _ (by decide)).trans (h.2 hk)
  | actReverse => exact fun hk => (driveLines_getLsbD _ (by decide)).trans (h.2 hk)
  | _ => trivial

theorem driveSafe_of_inv {s : State} (hs : Inv s) (hn : driveLines s.regs ≠ 0b11) : DriveSafe s := by
  refine ⟨hn, fun hb i hi => driveProgress_of_commandProgress ?_⟩
  have hp := hs.progress hb
  rwa [sequencerInv, hi] at hp

/-- Settles O27: DriveSafe, which the invariant gives, is kept by every step, and the script never offers another agent's
write to ACT.DRV. -/
theorem driveLinesNeverBothAsserted : Obligations.DriveLinesNeverBothAsserted :=
  ⟨by decide, fun _ _ _ hs hn hm h => (runs_keeps_driveSafe (driveSafe_of_inv hs hn) hm h).notBoth⟩

/-! ### Access rights -/

theorem bitsWithin_self (m : RegWord) : bitsWithin m m := BitVec.and_not_self m

/-- A step with one masked write is within its rights when the write is. -/
theorem WriteEffect.allowed {i : Instr} {bd : Board} {r : RegId} {m v : RegWord} {s t : State}
    (h : WriteEffect r m v s t) (ha : accessAllowed i bd (.writing r m v true)) : accessAllowed i bd t.regPort := by
  obtain ⟨-, -, -, -, -, -, hport, -, -⟩ := h.frame
  rwa [hport]

/-- A step with no transaction leaves an idle port idle, which every command may. -/
theorem accessAllowed_of_idle {i : Instr} {bd : Board} {p : RegPort} (h : p = .idle) : accessAllowed i bd p := by
  rw [h]; trivial

theorem StartEffect.allowed {i : Instr} {bd : Board} {s t : State} (h : StartEffect s t) (hs : s.regPort = .idle) :
    accessAllowed i bd t.regPort := by
  obtain ⟨-, -, -, -, -, -, hport, -⟩ := h.frame
  exact accessAllowed_of_idle (hport.trans hs)

/-- Both resistor registers are among those CONFIGURE_PIN may write. -/
theorem oppositeReg_cases {r : Resistor} {k : BankReg} (h : oppositeReg r = some k) : k = .pur ∨ k = .pdr := by
  cases r <;> cases h <;> decide

theorem requestedReg_cases {r : Resistor} {k : BankReg} (h : requestedReg r = some k) : k = .pur ∨ k = .pdr := by
  cases r <;> cases h <;> decide

theorem configurePin_allowed {port pin dir res} {s t : State} (hs : s.regPort = .idle)
    (h : exec (.configurePin port pin dir res) s = .next t) :
    accessAllowed (.configurePin port pin dir res) s.board t.regPort := by
  obtain h | ⟨p, j, r, ho, h⟩ := configurePin_next h
  · exact h.allowed hs
  obtain ⟨hp, hj, -⟩ := configureOperands_eq_some.mp ho
  obtain ⟨-, h⟩ | ⟨k, -, hk, h⟩ | ⟨k, -, hk, h⟩ | ⟨-, h⟩ | ⟨-, h⟩ := h <;>
    refine h.allowed ⟨p, j, hp, hj, ?_⟩
  · exact .inl ⟨rfl, bitsWithin_self _⟩
  · refine .inr ⟨?_, bitsWithin_self _⟩
    obtain rfl | rfl := oppositeReg_cases hk <;> simp
  · refine .inr ⟨?_, bitsWithin_self _⟩
    obtain rfl | rfl := requestedReg_cases hk <;> simp
  · exact .inr ⟨.inr (.inr (.inl rfl)), bitsWithin_self _⟩
  · exact .inr ⟨.inr (.inr (.inr rfl)), bitsWithin_self _⟩

theorem attachInterrupt_allowed {port pin prio edge} {s t : State} (hs : s.regPort = .idle)
    (h : exec (.attachInterrupt port pin prio edge) s = .next t) :
    accessAllowed (.attachInterrupt port pin prio edge) s.board t.regPort := by
  obtain h | ⟨p, j, ho, h⟩ := attachInterrupt_next h
  · exact h.allowed hs
  obtain ⟨hp, hj, -⟩ := attachOperands_eq_some.mp ho
  obtain ⟨-, h⟩ | ⟨-, h⟩ | ⟨-, h⟩ | ⟨-, h⟩ | ⟨-, h⟩ | ⟨-, h⟩ := h <;>
    refine h.allowed ⟨p, j, hp, hj, ?_⟩
  · exact .inl ⟨.inl rfl, bitsWithin_self _⟩
  · exact .inl ⟨.inr (.inl rfl), bitsWithin_self _⟩
  · exact .inl ⟨.inr (.inr (.inl rfl)), bitsWithin_self _⟩
  · exact .inl ⟨.inr (.inr (.inr rfl)), bitsWithin_self _⟩
  · exact .inr (.inl ⟨rfl, bitsWithin_self _⟩)
  · exact .inr (.inr ⟨rfl, bitsWithin_self _⟩)

/-- A drive line is one of bits 1:0 of ACT.DRV (10 R44). -/
theorem bitsWithin_drive {j : Nat} (hj : j < 2) : bitsWithin (oneHot j) 0x3 := by
  unfold bitsWithin
  interval_cases j <;> decide

/-- A direction command's transactions are one-bit writes of the two drive lines. -/
theorem driveStep_allowed {i : Instr} {bd : Board} {off on : Nat} {s t : State} (hoff : off < 2) (hon : on < 2)
    (hs : s.regPort = .idle) (ha : ∀ m v, bitsWithin m 0x3 → accessAllowed i bd (.writing .actDrv m v true))
    (h : driveStep off on s = .next t) : accessAllowed i bd t.regPort := by
  obtain ⟨-, rfl⟩ | ⟨-, rfl⟩ | ⟨-, rfl⟩ := driveStep_next h
  · exact accessAllowed_of_idle hs
  · exact ha _ _ (bitsWithin_drive hoff)
  · exact ha _ _ (bitsWithin_drive hon)

/-- Settles O46, by the inversion of each command's steps. -/
theorem commandAccessRights : Obligations.CommandAccessRights := by
  intro i s t hs h
  cases i with
  | configurePin port pin dir res => exact configurePin_allowed hs h
  | attachInterrupt port pin prio edge => exact attachInterrupt_allowed hs h
  | actForward => exact driveStep_allowed (by decide) (by decide) hs (fun _ _ hm => ⟨rfl, hm⟩) h
  | actReverse => exact driveStep_allowed (by decide) (by decide) hs (fun _ _ hm => ⟨rfl, hm⟩) h
  | actStop =>
    obtain ⟨-, rfl⟩ | ⟨-, rfl⟩ := actStop_next h
    · exact accessAllowed_of_idle hs
    · exact ⟨rfl, bitsWithin_self _⟩
  | initPwm load cmp =>
    obtain ⟨-, rfl⟩ | ⟨-, rfl⟩ | ⟨-, rfl⟩ | ⟨-, rfl⟩ | ⟨-, rfl⟩ := initPwm_next h
    · exact accessAllowed_of_idle hs
    · exact .inl ⟨rfl, bitsWithin_self _⟩
    · exact .inr (.inl ⟨rfl, bitsWithin_self _⟩)
    · exact .inr (.inr ⟨rfl, bitsWithin_self _⟩)
    · exact .inl ⟨rfl, bitsWithin_self _⟩
  | setDuty cmp =>
    obtain ⟨-, rfl⟩ | ⟨-, rfl⟩ | ⟨-, rfl⟩ := setDuty_next h
    · exact accessAllowed_of_idle hs
    · exact (rfl : RegId.pwmLoad = .pwmLoad)
    · exact ⟨rfl, bitsWithin_self _⟩
  | transmitByte byte =>
    obtain ⟨-, rfl⟩ | ⟨-, rfl⟩ | ⟨-, -, rfl⟩ := transmitByte_next h
    · exact accessAllowed_of_idle hs
    · exact (rfl : RegId.uartFlags = .uartFlags)
    · exact ⟨rfl, bitsWithin_self _⟩
  | receiveByte =>
    obtain ⟨-, rfl⟩ | ⟨-, rfl⟩ | ⟨b, rest, -, -, rfl⟩ := receiveByte_next h
    · exact accessAllowed_of_idle hs
    · exact .inl rfl
    · exact .inr rfl

/-! ### Reset -/

/-- With both lines deasserted the actuator is Stopped (10 R45). -/
theorem actuator_of_lines_clear {g : RegSpace} (h : driveLines g = 0b00) : actuator g = .stopped := by
  rw [actuator, h]; rfl

/-- Settles O10: the lines of the reset register space are clear; the rest is what State.resetOn writes. -/
theorem resetLeavesIdleAndStopped : Obligations.ResetLeavesIdleAndStopped :=
  fun _ => ⟨rfl, rfl, rfl, rfl, actuator_of_lines_clear (g := RegSpace.reset) (by decide), rfl, rfl⟩

end Sys2Proof.Machine

/-! SUPPORT AND PROOFS, family 30_encoding: the fields of a command word, the encoder and the decoder by fields, and the
statements about the encoding (30 R93 to R95, R103). -/

namespace Sys2Proof

open Laws.TableRow (row)

/-! ### Fields of a word -/

@[simp] theorem Direction.ofBit_toBit (d : Direction) : Direction.ofBit d.toBit = d := by cases d <;> rfl

@[simp] theorem Direction.toBit_ofBit (b : BitVec 1) : (Direction.ofBit b).toBit = b := by revert b; decide

@[simp] theorem EdgeMode.ofBit_toBit (e : EdgeMode) : EdgeMode.ofBit e.toBit = e := by cases e <;> rfl

@[simp] theorem EdgeMode.toBit_ofBit (b : BitVec 1) : (EdgeMode.ofBit b).toBit = b := by revert b; decide

/-- A field is two parts put side by side exactly when its high and its low bits are the parts. -/
theorem field_eq_append_iff {w : CmdWord} {lo n m : Nat} {x : BitVec n} {y : BitVec m} :
    field w lo (n + m) = x ++ y ↔ field w (lo + m) n = x ∧ field w lo m = y := by
  have hw : field w (lo + m) n ++ field w lo m = field w lo (n + m) :=
    BitVec.extractLsb'_append_extractLsb'_eq_extractLsb' rfl
  constructor
  · intro h
    rw [← hw] at h
    have hx := congrArg (BitVec.extractLsb' m n) h
    have hy := congrArg (BitVec.extractLsb' 0 m) h
    rw [BitVec.extractLsb'_append_eq_left, BitVec.extractLsb'_append_eq_left] at hx
    rw [BitVec.extractLsb'_append_eq_right, BitVec.extractLsb'_append_eq_right] at hy
    exact ⟨hx, hy⟩
  · rintro ⟨rfl, rfl⟩; exact hw.symm

theorem field_all (w : CmdWord) : field w 0 36 = w := BitVec.extractLsb'_eq_self

/-- A field that lies inside the mask can be read off the masked word. -/
theorem field_of_masked {w mask m : CmdWord} {lo n : Nat} {v : BitVec n} (h : w &&& mask = m)
    (hmask : field mask lo n = BitVec.allOnes n) (hm : field m lo n = v) : field w lo n = v := by
  have hand : field w lo n &&& field mask lo n = field m lo n := by
    rw [← h]; exact BitVec.extractLsb'_and.symm
  rwa [hmask, BitVec.and_allOnes, hm] at hand

/-! ### The encoder by fields (30 R82 to R87) -/

/-- The format of the commands without operands (30 R84), whatever their opcode. -/
theorem opcode_append_zero_eq_iff {op : BitVec 4} {w : CmdWord} :
    op ++ 0#32 = w ↔ opcodeOf w = op ∧ field w 0 32 = 0 := by
  conv_lhs => rw [← field_all w]
  exact (eq_comm.trans field_eq_append_iff).trans Iff.rfl

theorem encode_configurePin_eq_iff {port : BitVec 4} {pin : BitVec 8} {dir : Direction} {res : BitVec 2} {w : CmdWord} :
    encode (.configurePin port pin dir res) = w ↔
      opcodeOf w = 0x1 ∧ field w 28 4 = port ∧ field w 20 8 = pin ∧ field w 3 17 = 0 ∧ field w 2 1 = dir.toBit ∧
        field w 0 2 = res := by
  conv_lhs => rw [← field_all w]
  refine (eq_comm.trans field_eq_append_iff).trans ?_
  simp only [field_eq_append_iff, and_assoc]
  rfl

theorem encode_attachInterrupt_eq_iff {port : BitVec 4} {pin prio : BitVec 8} {edge : EdgeMode} {w : CmdWord} :
    encode (.attachInterrupt port pin prio edge) = w ↔
      opcodeOf w = 0x2 ∧ field w 28 4 = port ∧ field w 20 8 = pin ∧ field w 12 8 = prio ∧ field w 1 11 = 0 ∧
        field w 0 1 = edge.toBit := by
  conv_lhs => rw [← field_all w]
  refine (eq_comm.trans field_eq_append_iff).trans ?_
  simp only [field_eq_append_iff, and_assoc]
  rfl

theorem encode_initPwm_eq_iff {load cmp : PwmWord} {w : CmdWord} :
    encode (.initPwm load cmp) = w ↔ opcodeOf w = 0x8 ∧ field w 16 16 = load ∧ field w 0 16 = cmp := by
  conv_lhs => rw [← field_all w]
  refine (eq_comm.trans field_eq_append_iff).trans ?_
  simp only [field_eq_append_iff, and_assoc]
  rfl

theorem encode_setDuty_eq_iff {cmp : PwmWord} {w : CmdWord} :
    encode (.setDuty cmp) = w ↔ opcodeOf w = 0x9 ∧ field w 16 16 = 0 ∧ field w 0 16 = cmp := by
  conv_lhs => rw [← field_all w]
  refine (eq_comm.trans field_eq_append_iff).trans ?_
  simp only [field_eq_append_iff, and_assoc]
  rfl

theorem encode_transmitByte_eq_iff {byte : Byte} {w : CmdWord} :
    encode (.transmitByte byte) = w ↔ opcodeOf w = 0xC ∧ field w 8 24 = 0 ∧ field w 0 8 = byte := by
  conv_lhs => rw [← field_all w]
  refine (eq_comm.trans field_eq_append_iff).trans ?_
  simp only [field_eq_append_iff, and_assoc]
  rfl

/-! ### The decoder by opcode (30 R96) -/

section
variable {w : CmdWord}

theorem decode_of_opcode1 (h : opcodeOf w = 0x1) : decode w = requireZero w (field w 3 17)
    (.configurePin (field w 28 4) (field w 20 8) (Direction.ofBit (field w 2 1)) (field w 0 2)) := by rw [decode, h]; rfl

theorem decode_of_opcode2 (h : opcodeOf w = 0x2) : decode w = requireZero w (field w 1 11)
    (.attachInterrupt (field w 28 4) (field w 20 8) (field w 12 8) (EdgeMode.ofBit (field w 0 1))) := by rw [decode, h]; rfl

theorem decode_of_opcode4 (h : opcodeOf w = 0x4) : decode w = requireZero w (field w 0 32) .actForward := by
  rw [decode, h]; rfl

theorem decode_of_opcode5 (h : opcodeOf w = 0x5) : decode w = requireZero w (field w 0 32) .actReverse := by
  rw [decode, h]; rfl

theorem decode_of_opcode6 (h : opcodeOf w = 0x6) : decode w = requireZero w (field w 0 32) .actStop := by
  rw [decode, h]; rfl

theorem decode_of_opcode8 (h : opcodeOf w = 0x8) : decode w = .command (.initPwm (field w 16 16) (field w 0 16)) := by
  rw [decode, h]; rfl

theorem decode_of_opcode9 (h : opcodeOf w = 0x9) : decode w = requireZero w (field w 16 16) (.setDuty (field w 0 16)) := by
  rw [decode, h]; rfl

theorem decode_of_opcodeC (h : opcodeOf w = 0xC) : decode w = requireZero w (field w 8 24) (.transmitByte (field w 0 8)) := by
  rw [decode, h]; rfl

theorem decode_of_opcodeD (h : opcodeOf w = 0xD) : decode w = requireZero w (field w 0 32) .receiveByte := by
  rw [decode, h]; rfl

/-- The opcodes that no command has (30 R94). -/
def reservedOpcodes : List (BitVec 4) := [0x0#4, 0x3#4, 0x7#4, 0xA#4, 0xB#4, 0xE#4, 0xF#4]

theorem decode_reserved (h : opcodeOf w ∈ reservedOpcodes) : decode w = .illegal (.reservedOpcode (opcodeOf w)) := by
  simp only [reservedOpcodes, List.mem_cons, List.not_mem_nil, or_false] at h
  obtain h | h | h | h | h | h | h := h <;> rw [decode, h] <;> rfl

theorem opcode_cases (op : BitVec 4) :
    op ∈ reservedOpcodes ∨ op = 0x1 ∨ op = 0x2 ∨ op = 0x4 ∨ op = 0x5 ∨ op = 0x6 ∨ op = 0x8 ∨ op = 0x9 ∨ op = 0xC ∨
      op = 0xD := by
  revert op; decide

theorem requireZero_of_eq {n : Nat} {zero : BitVec n} {i : Instr} (h : zero = 0) :
    requireZero w zero i = .command i := if_pos h

theorem requireZero_of_ne {n : Nat} {zero : BitVec n} {i : Instr} (h : zero ≠ 0) :
    requireZero w zero i = .illegal (.reservedBitsSet (opcodeOf w)) := if_neg h

/-! ### What decoding answers -/

/-- A bit of a `zero` field of the opcode's format is set (30 R95). -/
def zeroFieldSet (w : CmdWord) : Prop :=
  (opcodeOf w = 0x1#4 ∧ field w 3 17 ≠ 0) ∨
  (opcodeOf w = 0x2#4 ∧ field w 1 11 ≠ 0) ∨
  (opcodeOf w ∈ [0x4#4, 0x5#4, 0x6#4, 0xD#4] ∧ field w 0 32 ≠ 0) ∨
  (opcodeOf w = 0x9#4 ∧ field w 16 16 ≠ 0) ∨
  (opcodeOf w = 0xC#4 ∧ field w 8 24 ≠ 0)

/-- What the decoder may answer on the word `w`: one of the two errors, each for its own reason, or a command whose encoding
is `w`. The three cases exclude one another. -/
inductive DecodeCase (w : CmdWord) : Decoded → Prop
  | reserved : opcodeOf w ∈ reservedOpcodes → ¬ zeroFieldSet w → DecodeCase w (.illegal (.reservedOpcode (opcodeOf w)))
  | zeroSet : opcodeOf w ∉ reservedOpcodes → zeroFieldSet w → DecodeCase w (.illegal (.reservedBitsSet (opcodeOf w)))
  | command (i : Instr) : opcodeOf w ∉ reservedOpcodes → ¬ zeroFieldSet w → encode i = w → DecodeCase w (.command i)

/-- A word of a format with a `zero` field: the field decides. -/
theorem requireZero_case {n : Nat} {zero : BitVec n} {i : Instr} (ho : opcodeOf w ∉ reservedOpcodes)
    (hz : zeroFieldSet w ↔ zero ≠ 0) (hi : zero = 0 → encode i = w) : DecodeCase w (requireZero w zero i) := by
  by_cases h : zero = 0
  · rw [requireZero_of_eq h]; exact .command i ho (fun hs => hz.mp hs h) (hi h)
  · rw [requireZero_of_ne h]; exact .zeroSet ho (hz.mpr h)

/-- A reserved opcode has no format, so no `zero` field. -/
theorem not_zeroFieldSet_of_reserved (h : opcodeOf w ∈ reservedOpcodes) : ¬ zeroFieldSet w := by
  have hf : ∀ op ∈ reservedOpcodes, op ∉ [0x1#4, 0x2#4, 0x4#4, 0x5#4, 0x6#4, 0xD#4, 0x9#4, 0xC#4] := by decide
  have hop := hf _ h
  simp only [List.mem_cons, List.not_mem_nil, or_false, not_or] at hop
  simp [zeroFieldSet, hop]

theorem decode_case (w : CmdWord) : DecodeCase w (decode w) := by
  obtain h | h | h | h | h | h | h | h | h | h := opcode_cases (opcodeOf w)
  · rw [decode_reserved h]
    exact .reserved h (not_zeroFieldSet_of_reserved h)
  · rw [decode_of_opcode1 h]
    exact requireZero_case (by rw [h]; decide) (by simp [zeroFieldSet, h])
      fun hz => encode_configurePin_eq_iff.mpr ⟨h, rfl, rfl, hz, by simp, rfl⟩
  · rw [decode_of_opcode2 h]
    exact requireZero_case (by rw [h]; decide) (by simp [zeroFieldSet, h])
      fun hz => encode_attachInterrupt_eq_iff.mpr ⟨h, rfl, rfl, rfl, hz, by simp⟩
  · rw [decode_of_opcode4 h]
    exact requireZero_case (by rw [h]; decide) (by simp [zeroFieldSet, h]) fun hz => opcode_append_zero_eq_iff.mpr ⟨h, hz⟩
  · rw [decode_of_opcode5 h]
    exact requireZero_case (by rw [h]; decide) (by simp [zeroFieldSet, h]) fun hz => opcode_append_zero_eq_iff.mpr ⟨h, hz⟩
  · rw [decode_of_opcode6 h]
    exact requireZero_case (by rw [h]; decide) (by simp [zeroFieldSet, h]) fun hz => opcode_append_zero_eq_iff.mpr ⟨h, hz⟩
  · rw [decode_of_opcode8 h]
    exact .command _ (by rw [h]; decide) (by simp [zeroFieldSet, h]) (encode_initPwm_eq_iff.mpr ⟨h, rfl, rfl⟩)
  · rw [decode_of_opcode9 h]
    exact requireZero_case (by rw [h]; decide) (by simp [zeroFieldSet, h])
      fun hz => encode_setDuty_eq_iff.mpr ⟨h, hz, rfl⟩
  · rw [decode_of_opcodeC h]
    exact requireZero_case (by rw [h]; decide) (by simp [zeroFieldSet, h])
      fun hz => encode_transmitByte_eq_iff.mpr ⟨h, hz, rfl⟩
  · rw [decode_of_opcodeD h]
    exact requireZero_case (by rw [h]; decide) (by simp [zeroFieldSet, h]) fun hz => opcode_append_zero_eq_iff.mpr ⟨h, hz⟩

end

/-! ### The encoding function and the round trips -/

theorem decode_encode (i : Instr) : decode (encode i) = .command i := by
  cases i with
  | configurePin port pin dir res =>
    obtain ⟨h, hport, hpin, hz, hdir, hres⟩ :=
      encode_configurePin_eq_iff.mp (Eq.refl (encode (.configurePin port pin dir res)))
    rw [decode_of_opcode1 h, requireZero_of_eq hz, hport, hpin, hdir, hres, Direction.ofBit_toBit]
  | attachInterrupt port pin prio edge =>
    obtain ⟨h, hport, hpin, hprio, hz, hedge⟩ :=
      encode_attachInterrupt_eq_iff.mp (Eq.refl (encode (.attachInterrupt port pin prio edge)))
    rw [decode_of_opcode2 h, requireZero_of_eq hz, hport, hpin, hprio, hedge, EdgeMode.ofBit_toBit]
  | actForward => decide
  | actReverse => decide
  | actStop => decide
  | initPwm load cmp =>
    obtain ⟨h, hload, hcmp⟩ := encode_initPwm_eq_iff.mp (Eq.refl (encode (.initPwm load cmp)))
    rw [decode_of_opcode8 h, hload, hcmp]
  | setDuty cmp =>
    obtain ⟨h, hz, hcmp⟩ := encode_setDuty_eq_iff.mp (Eq.refl (encode (.setDuty cmp)))
    rw [decode_of_opcode9 h, requireZero_of_eq hz, hcmp]
  | transmitByte byte =>
    obtain ⟨h, hz, hbyte⟩ := encode_transmitByte_eq_iff.mp (Eq.refl (encode (.transmitByte byte)))
    rw [decode_of_opcodeC h, requireZero_of_eq hz, hbyte]
  | receiveByte => decide

/-- Both round trips at once: a word is a command exactly when it is the command's encoding. -/
theorem decode_eq_command_iff {w : CmdWord} {i : Instr} : decode w = .command i ↔ encode i = w := by
  constructor
  · intro h
    have hc := decode_case w
    rw [h] at hc
    cases hc with
    | command _ _ _ hw => exact hw
  · rintro rfl; exact decode_encode i

/-- Settles O1: the encoder's fields put in their places by shifting, and both round trips from `decode_eq_command_iff`. -/
theorem encodingFunctionRoundTrip : Obligations.EncodingFunctionRoundTrip := by
  refine ⟨fun port pin dir res => ?_, fun port pin prio edge => ?_, rfl, rfl, rfl, fun load cmp => ?_, fun cmp => ?_,
    fun byte => ?_, rfl, decode_encode, fun _ _ => decode_eq_command_iff.mp, by decide, by decide, by decide, by decide,
    by decide⟩
  -- An appended word is its parts, each widened to the word and shifted to its place.
  all_goals
    rw [← BitVec.setWidth_eq (encode _), encode]
    simp only [BitVec.setWidth_append_eq_shiftLeft_setWidth_or, BitVec.shiftLeft_or_distrib]
    simp

/-! ### The reserved encodings -/

theorem decode_eq_reservedOpcode_iff {w : CmdWord} :
    decode w = .illegal (.reservedOpcode (opcodeOf w)) ↔ opcodeOf w ∈ reservedOpcodes := by
  have hc := decode_case w
  generalize decode w = d at hc
  cases hc with
  | reserved ho _ => simp [ho]
  | zeroSet ho _ => simp [ho]
  | command i ho _ _ => simp [ho]

theorem decode_eq_reservedBitsSet_iff {w : CmdWord} :
    decode w = .illegal (.reservedBitsSet (opcodeOf w)) ↔ zeroFieldSet w := by
  have hc := decode_case w
  generalize decode w = d at hc
  cases hc with
  | reserved _ hz => simp [hz]
  | zeroSet _ hz => simp [hz]
  | command i _ hz _ => simp [hz]

/-- Settles O4, by the exclusive cases of what decoding answers. -/
theorem reservedEncodingsIllegal : Obligations.ReservedEncodingsIllegal :=
  ⟨fun _ => decode_eq_reservedOpcode_iff, fun _ => decode_eq_reservedBitsSet_iff⟩

/-! ### The opcode table -/

/-- The encoded word of every command matches the command's row: the family of Laws/PerInstr.lean in one statement. -/
theorem encode_matches_row (i : Instr) : encode i &&& (row i).1 = (row i).2 := by
  cases i with
  | configurePin port pin dir res => exact Laws.TableRow.configurePin port pin dir res
  | attachInterrupt port pin prio edge => exact Laws.TableRow.attachInterrupt port pin prio edge
  | actForward => exact Laws.TableRow.actForward
  | actReverse => exact Laws.TableRow.actReverse
  | actStop => exact Laws.TableRow.actStop
  | initPwm load cmp => exact Laws.TableRow.initPwm load cmp
  | setDuty cmp => exact Laws.TableRow.setDuty cmp
  | transmitByte byte => exact Laws.TableRow.transmitByte byte
  | receiveByte => exact Laws.TableRow.receiveByte

section
variable {w : CmdWord}

theorem matches_row_of_decode {i : Instr} (h : decode w = .command i) : w &&& (row i).1 = (row i).2 :=
  decode_eq_command_iff.mp h ▸ encode_matches_row i

/-! A word that matches a row has the row's opcode and its `zero` field clear, both of which lie inside the mask; so it decodes
to the row's command. -/

theorem decode_configurePin_iff :
    (∃ port pin dir res, decode w = .command (.configurePin port pin dir res)) ↔ w &&& 0xF000FFFF8 = 0x100000000 := by
  refine ⟨fun ⟨_, _, _, _, h⟩ => matches_row_of_decode h, fun h => ?_⟩
  have ho : opcodeOf w = 0x1 := field_of_masked h (by decide) (by decide)
  have hz : field w 3 17 = 0 := field_of_masked h (by decide) (by decide)
  exact ⟨_, _, _, _, (decode_of_opcode1 ho).trans (requireZero_of_eq hz)⟩

theorem decode_attachInterrupt_iff :
    (∃ port pin prio edge, decode w = .command (.attachInterrupt port pin prio edge)) ↔
      w &&& 0xF00000FFE = 0x200000000 := by
  refine ⟨fun ⟨_, _, _, _, h⟩ => matches_row_of_decode h, fun h => ?_⟩
  have ho : opcodeOf w = 0x2 := field_of_masked h (by decide) (by decide)
  have hz : field w 1 11 = 0 := field_of_masked h (by decide) (by decide)
  exact ⟨_, _, _, _, (decode_of_opcode2 ho).trans (requireZero_of_eq hz)⟩

/-- The row of a command without operands: its mask leaves no bit free. -/
theorem decode_iff_of_full_mask {i : Instr} {m : CmdWord} (hm : encode i = m) :
    decode w = .command i ↔ w &&& 0xFFFFFFFFF = m := by
  have hall : w &&& 0xFFFFFFFFF = w := BitVec.and_allOnes
  rw [decode_eq_command_iff, hall, hm, eq_comm]

theorem decode_initPwm_iff :
    (∃ load cmp, decode w = .command (.initPwm load cmp)) ↔ w &&& 0xF00000000 = 0x800000000 := by
  refine ⟨fun ⟨_, _, h⟩ => matches_row_of_decode h, fun h => ?_⟩
  have ho : opcodeOf w = 0x8 := field_of_masked h (by decide) (by decide)
  exact ⟨_, _, decode_of_opcode8 ho⟩

theorem decode_setDuty_iff : (∃ cmp, decode w = .command (.setDuty cmp)) ↔ w &&& 0xFFFFF0000 = 0x900000000 := by
  refine ⟨fun ⟨_, h⟩ => matches_row_of_decode h, fun h => ?_⟩
  have ho : opcodeOf w = 0x9 := field_of_masked h (by decide) (by decide)
  have hz : field w 16 16 = 0 := field_of_masked h (by decide) (by decide)
  exact ⟨_, (decode_of_opcode9 ho).trans (requireZero_of_eq hz)⟩

theorem decode_transmitByte_iff :
    (∃ byte, decode w = .command (.transmitByte byte)) ↔ w &&& 0xFFFFFFF00 = 0xC00000000 := by
  refine ⟨fun ⟨_, h⟩ => matches_row_of_decode h, fun h => ?_⟩
  have ho : opcodeOf w = 0xC := field_of_masked h (by decide) (by decide)
  have hz : field w 8 24 = 0 := field_of_masked h (by decide) (by decide)
  exact ⟨_, (decode_of_opcodeC ho).trans (requireZero_of_eq hz)⟩

/-- Decoding is total: a word is illegal exactly when it is no command. -/
theorem decode_illegal_iff : (∃ e, decode w = .illegal e) ↔ ¬ ∃ i, decode w = .command i := by
  cases decode w <;> simp

end

/-- Some command is one of the nine. -/
theorem exists_instr_iff {P : Instr → Prop} :
    (∃ i, P i) ↔ (∃ port pin dir res, P (.configurePin port pin dir res)) ∨
      (∃ port pin prio edge, P (.attachInterrupt port pin prio edge)) ∨ P .actForward ∨ P .actReverse ∨ P .actStop ∨
      (∃ load cmp, P (.initPwm load cmp)) ∨ (∃ cmp, P (.setDuty cmp)) ∨ (∃ byte, P (.transmitByte byte)) ∨
      P .receiveByte := by
  constructor
  · rintro ⟨i, h⟩
    cases i with
    | configurePin port pin dir res => exact .inl ⟨port, pin, dir, res, h⟩
    | attachInterrupt port pin prio edge => exact .inr (.inl ⟨port, pin, prio, edge, h⟩)
    | actForward => simp [h]
    | actReverse => simp [h]
    | actStop => simp [h]
    | initPwm load cmp => exact .inr (.inr (.inr (.inr (.inr (.inl ⟨load, cmp, h⟩)))))
    | setDuty cmp => exact .inr (.inr (.inr (.inr (.inr (.inr (.inl ⟨cmp, h⟩))))))
    | transmitByte byte => exact .inr (.inr (.inr (.inr (.inr (.inr (.inr (.inl ⟨byte, h⟩)))))))
    | receiveByte => simp [h]
  · rintro (⟨_, _, _, _, h⟩ | ⟨_, _, _, _, h⟩ | h | h | h | ⟨_, _, h⟩ | ⟨_, h⟩ | ⟨_, h⟩ | h) <;> exact ⟨_, h⟩

/-- Settles O3, row by row; a word is illegal when it is none of the nine commands. -/
theorem decodeByMaskAndMatch : Obligations.DecodeByMaskAndMatch := by
  intro w
  have forward : decode w = .command .actForward ↔ w &&& 0xFFFFFFFFF = 0x400000000 := decode_iff_of_full_mask (by decide)
  have reverse : decode w = .command .actReverse ↔ w &&& 0xFFFFFFFFF = 0x500000000 := decode_iff_of_full_mask (by decide)
  have stop : decode w = .command .actStop ↔ w &&& 0xFFFFFFFFF = 0x600000000 := decode_iff_of_full_mask (by decide)
  have receive : decode w = .command .receiveByte ↔ w &&& 0xFFFFFFFFF = 0xD00000000 := decode_iff_of_full_mask (by decide)
  refine ⟨decode_configurePin_iff, decode_attachInterrupt_iff, forward, reverse, stop, decode_initPwm_iff,
    decode_setDuty_iff, decode_transmitByte_iff, receive, ?_⟩
  rw [decode_illegal_iff, exists_instr_iff, decode_configurePin_iff, decode_attachInterrupt_iff, forward, reverse, stop,
    decode_initPwm_iff, decode_setDuty_iff, decode_transmitByte_iff, receive]

end Sys2Proof

/-! SUPPORT AND PROOFS, family 40_pin_config: undisturbed runs with the transactions they show, one equation per step of
CONFIGURE_PIN, and the statements about it (40 R110 to R115). -/

namespace Sys2Proof

open Machine

/-! ### Undisturbed runs -/

/-- SEQ is in the middle of the command `i`, at any step of it, and only SEQ will move. -/
structure InProgress (i : Instr) (s : State) : Prop where
  busy  : s.busy = true
  cmd   : s.cmd = encode i
  moves : s.moves = []

theorem Accepted.inProgress {i : Instr} {s : State} (h : Accepted i s) : InProgress i s := ⟨h.busy, h.cmd, h.moves⟩

/-- An undisturbed step performs the command in CMD, on the state with the outputs of the step before withdrawn. -/
theorem InProgress.step_eq {i : Instr} {s : State} (h : InProgress i s) :
    step s = exec i { s with rsp := none, regPort := .idle } := by
  have hseq : nextMove s = .seq := by rw [nextMove, h.moves]
  have hopen : s.openStep = { s with rsp := none, regPort := .idle } := by
    rw [openStep_of_seq hseq]; simp only [h.moves, List.tail_nil]
  rw [step, hseq, hopen]
  simp only [makeMove, seqMove, h.busy, if_true, h.cmd, decode_encode]

/-- A step that leaves SEQ busy leaves it in the same command. -/
theorem InProgress.after {i : Instr} {s t : State} (h : InProgress i s) (ht : step s = .next t) (hb : t.busy = true) :
    InProgress i t := by
  rw [h.step_eq] at ht
  obtain ⟨hcmd, -, -, hmoves⟩ := exec_keeps ht
  exact ⟨hb, hcmd.trans h.cmd, hmoves.trans h.moves⟩

/-- The first `n` steps from `s` show exactly the transactions `ts` and end in `t`. -/
def Shows (n : Nat) (s : State) (ts : List RegPort) (t : State) : Prop := transactions n s = ts ∧ runs n s t

theorem Shows.nil (s : State) : Shows 0 s [] s := ⟨rfl, runs_zero.mpr rfl⟩

/-- A step without a transaction, then the rest. -/
theorem Shows.silent {n : Nat} {s u t : State} {ts : List RegPort} (h : step s = .next u) (hport : u.regPort = .idle)
    (hrest : Shows n u ts t) : Shows (n + 1) s ts t := by
  obtain ⟨hts, hrun⟩ := hrest
  exact ⟨by rw [transactions_succ h, hport, hts]; rfl, runs_succ.mpr ⟨u, h, hrun⟩⟩

/-- A step with an acknowledged masked write, then the rest. -/
theorem Shows.writing {n : Nat} {s u t : State} {r : RegId} {m v : RegWord} {ts : List RegPort} (h : step s = .next u)
    (hport : u.regPort = .writing r m v true) (hrest : Shows n u ts t) :
    Shows (n + 1) s (.writing r m v true :: ts) t := by
  obtain ⟨hts, hrun⟩ := hrest
  exact ⟨by rw [transactions_succ h, hport, hts]; rfl, runs_succ.mpr ⟨u, h, hrun⟩⟩

namespace Machine

/-! ### Banks and clocks -/

theorem setBank_setBank (g : RegSpace) (p : Port) (b b' : Bank) : setBank (setBank g p b) p b' = setBank g p b' := by
  simp only [setBank, PortTable.set_set]

/-- A write to a bank register of a port whose clock is on. -/
theorem memWriteMasked_gpio_of_clockOn {p : Port} {k : BankReg} {b : Bank} {m v : RegWord} {s : State}
    (hc : clockOn s.board s.regs p = true) (hb : bankWrite (s.regs.banks.get p) k m v = some b) :
    memWriteMasked (.gpio p k) m v s = .next (s.wrote (.gpio p k) m v (setBank s.regs p b)) := by
  rw [memWriteMasked_gpio hb, if_pos hc]

/-- Setting a port's clock bit turns its clock on (40 R111). -/
theorem clockOn_of_clkBit_set (bd : Board) (g : RegSpace) (p : Port) :
    clockOn bd { g with clkgate := merge g.clkgate (oneHot (bd.clkBit p)) (oneHot (bd.clkBit p)) } p = true := by
  rw [clockOn, merge_set_getLsbD _ _ _ (bd.clkBit_lt p), if_pos rfl]

/-! ### The operands -/

/-- The direction bit in its place: set for Output, clear for Input (30 R91). -/
theorem bitAt_dirValue (dir : Direction) (i : Nat) :
    bitAt (dirValue dir) i = if dir = .output then oneHot i else 0 := by
  cases dir <;> rfl

theorem afterClock_eq (r : Resistor) : afterClock r = if r = .none then 4 else 2 := by cases r <;> rfl

/-- Code 3 is the only resistor code that names no mode (30 R91). -/
theorem resistorCode_le_two_iff {res : BitVec 2} : res.toNat ≤ 2 ↔ res ≠ 3 := by revert res; decide

theorem configureOperands_isSome_iff {port : BitVec 4} {pin : BitVec 8} {res : BitVec 2} :
    (configureOperands port pin res).isSome = true ↔ port.toNat ≤ 5 ∧ pin.toNat ≤ 7 ∧ res ≠ 3 := by
  simp only [configureOperands_isSome, Bool.and_eq_true, decide_eq_true_eq, resistorCode_le_two_iff, and_assoc]

/-! ### States on the way -/

/-- The state after S1: the port's clock on, at S4 with no resistor, else at S2 (40 R111). -/
def portClocked (p : Port) (r : Resistor) (s : State) : State :=
  { s with
    stepNo := afterClock r, rsp := none
    regPort := .writing .sysClkgate (oneHot (s.board.clkBit p)) (oneHot (s.board.clkBit p)) true
    regs := { s.regs with
      clkgate := merge s.regs.clkgate (oneHot (s.board.clkBit p)) (oneHot (s.board.clkBit p)) } }

theorem clockOn_portClocked (p : Port) (r : Resistor) (s : State) :
    clockOn (portClocked p r s).board (portClocked p r s).regs p = true := clockOn_of_clkBit_set ..

theorem inProgress_portClocked {c : Instr} {s : State} (hs : InProgress c s) (p : Port) (r : Resistor) :
    InProgress c (portClocked p r s) := ⟨hs.busy, hs.cmd, hs.moves⟩

/-- The bank after S4 and S5: the pin's direction and digital-enable bits written. -/
def Bank.withDirAndEnable (b : Bank) (i : Fin 8) (dir : Direction) : Bank :=
  { b with
    dir := merge b.dir (oneHot i.val) (bitAt (dirValue dir) i.val)
    den := merge b.den (oneHot i.val) (oneHot i.val) }

/-- The state in which CONFIGURE_PIN leaves the machine, with `g` in the register space. -/
def pinConfigured (p : Port) (i : Fin 8) (g : RegSpace) (s : State) : State :=
  { s with
    busy := false, stepNo := 5, rsp := some ⟨0, 0⟩
    regPort := .writing (.gpio p .den) (oneHot i.val) (oneHot i.val) true, regs := g }

/-! ### One equation per step -/

theorem checkThenStart_true (s : State) : checkThenStart true s = .next (s.goto 1) := rfl

theorem checkThenStart_false (s : State) : checkThenStart false s = .next (s.respond statusInvalidParameter 0) := rfl

section
variable {port : BitVec 4} {pin : BitVec 8} {dir : Direction} {res : BitVec 2} {p : Port} {i : Fin 8} {r : Resistor}
  {s : State}

/-- S0 rejects operands out of range (40 R110). -/
theorem exec_configurePin_reject (ho : configureOperands port pin res = none) (h : s.stepNo = 0) :
    exec (.configurePin port pin dir res) s = .next (s.respond statusInvalidParameter 0) := by
  rw [exec_configurePin_zero h, ho]; exact checkThenStart_false s

variable (ho : configureOperands port pin res = some (p, i, r))
include ho

/-- S0 goes on with checked operands (40 R110). -/
theorem exec_configurePin_start (h : s.stepNo = 0) : exec (.configurePin port pin dir res) s = .next (s.goto 1) := by
  rw [exec_configurePin_zero h, ho]; exact checkThenStart_true s

/-- S1: the clock (40 R111). -/
theorem exec_configurePin_clock (h : s.stepNo = 1) :
    exec (.configurePin port pin dir res) s =
      .next ((s.wrote .sysClkgate (oneHot (s.board.clkBit p)) (oneHot (s.board.clkBit p))
        { s.regs with clkgate := merge s.regs.clkgate (oneHot (s.board.clkBit p)) (oneHot (s.board.clkBit p)) }).goto
          (afterClock r)) := by
  rw [exec_configurePin_of_operands ho (by rw [h]; decide), configureStep, h]; rfl

/-- S2: the opposite resistor off (40 R112). -/
theorem exec_configurePin_opposite {k : BankReg} {b b' : Bank} (h : s.stepNo = 2) (hk : oppositeReg r = some k)
    (hc : clockOn s.board s.regs p = true) (hb : s.regs.banks.get p = b)
    (hw : bankWrite b k (oneHot i.val) 0 = some b') :
    exec (.configurePin port pin dir res) s =
      .next ((s.wrote (.gpio p k) (oneHot i.val) 0 (setBank s.regs p b')).goto 3) := by
  subst hb
  have hstep : configureStep p i dir r s = thenGoto 3 (clrBit (.gpio p k) i.val s) := by
    rw [configureStep, h, hk]; rfl
  rw [exec_configurePin_of_operands ho (by rw [h]; decide), hstep, clrBit, memWriteMasked_gpio_of_clockOn hc hw,
    thenGoto_next]

/-- S3: the requested resistor on (40 R112). -/
theorem exec_configurePin_requested {k : BankReg} {b b' : Bank} (h : s.stepNo = 3) (hk : requestedReg r = some k)
    (hc : clockOn s.board s.regs p = true) (hb : s.regs.banks.get p = b)
    (hw : bankWrite b k (oneHot i.val) (oneHot i.val) = some b') :
    exec (.configurePin port pin dir res) s =
      .next ((s.wrote (.gpio p k) (oneHot i.val) (oneHot i.val) (setBank s.regs p b')).goto 4) := by
  subst hb
  have hstep : configureStep p i dir r s = thenGoto 4 (setBit (.gpio p k) i.val s) := by
    rw [configureStep, h, hk]; rfl
  rw [exec_configurePin_of_operands ho (by rw [h]; decide), hstep, setBit, memWriteMasked_gpio_of_clockOn hc hw,
    thenGoto_next]

/-- S4: the direction (40 R113). -/
theorem exec_configurePin_direction {b : Bank} (h : s.stepNo = 4) (hc : clockOn s.board s.regs p = true)
    (hb : s.regs.banks.get p = b) :
    exec (.configurePin port pin dir res) s =
      .next ((s.wrote (.gpio p .dir) (oneHot i.val) (bitAt (dirValue dir) i.val)
        (setBank s.regs p { b with dir := merge b.dir (oneHot i.val) (bitAt (dirValue dir) i.val) })).goto 5) := by
  subst hb
  have hstep : configureStep p i dir r s = thenGoto 5 (putBit (.gpio p .dir) i.val (dirValue dir) s) := by
    rw [configureStep, h]; rfl
  rw [exec_configurePin_of_operands ho (by rw [h]; decide), hstep, putBit, memWriteMasked_gpio_of_clockOn hc rfl,
    thenGoto_next]

/-- S5: the digital enable, and the response (40 R114). -/
theorem exec_configurePin_enable {b : Bank} (h : s.stepNo = 5) (hc : clockOn s.board s.regs p = true)
    (hb : s.regs.banks.get p = b) :
    exec (.configurePin port pin dir res) s =
      .next ((s.wrote (.gpio p .den) (oneHot i.val) (oneHot i.val)
        (setBank s.regs p { b with den := merge b.den (oneHot i.val) (oneHot i.val) })).respond statusOk 0) := by
  subst hb
  have hstep : configureStep p i dir r s = thenDone (setBit (.gpio p .den) i.val s) := by
    rw [configureStep, h]; rfl
  rw [exec_configurePin_of_operands ho (by rw [h]; decide), hstep, setBit, memWriteMasked_gpio_of_clockOn hc rfl,
    thenDone_next]

/-! ### The whole command, from its last steps back to its first -/

/-- S4 and S5 (40 R113, R114). -/
theorem shows_direction_enable {b : Bank} (hs : InProgress (.configurePin port pin dir res) s) (h : s.stepNo = 4)
    (hc : clockOn s.board s.regs p = true) (hb : s.regs.banks.get p = b) :
    Shows 2 s
      [.writing (.gpio p .dir) (oneHot i.val) (bitAt (dirValue dir) i.val) true,
        .writing (.gpio p .den) (oneHot i.val) (oneHot i.val) true]
      (pinConfigured p i (setBank s.regs p (b.withDirAndEnable i dir)) s) := by
  have h4 := hs.step_eq.trans (exec_configurePin_direction ho h hc hb)
  have hs5 := hs.after h4 hs.busy
  have h5 := hs5.step_eq.trans (exec_configurePin_enable ho rfl hc (PortTable.get_set_self ..))
  rw [← setBank_setBank s.regs p { b with dir := merge b.dir (oneHot i.val) (bitAt (dirValue dir) i.val) }]
  exact .writing h4 rfl (.writing h5 rfl (.nil _))

/-- S2 to S5, with a resistor: `b'` is the bank after S2, `b''` after S3 (40 R112). -/
theorem shows_resistor {k k' : BankReg} {b b' b'' : Bank} (hs : InProgress (.configurePin port pin dir res) s)
    (h : s.stepNo = 2) (hk : oppositeReg r = some k) (hk' : requestedReg r = some k')
    (hc : clockOn s.board s.regs p = true) (hb : s.regs.banks.get p = b)
    (hw : bankWrite b k (oneHot i.val) 0 = some b') (hw' : bankWrite b' k' (oneHot i.val) (oneHot i.val) = some b'') :
    Shows 4 s
      [.writing (.gpio p k) (oneHot i.val) 0 true, .writing (.gpio p k') (oneHot i.val) (oneHot i.val) true,
        .writing (.gpio p .dir) (oneHot i.val) (bitAt (dirValue dir) i.val) true,
        .writing (.gpio p .den) (oneHot i.val) (oneHot i.val) true]
      (pinConfigured p i (setBank s.regs p (b''.withDirAndEnable i dir)) s) := by
  have h2 := hs.step_eq.trans (exec_configurePin_opposite ho h hk hc hb hw)
  have hs3 := hs.after h2 hs.busy
  have h3 := hs3.step_eq.trans (exec_configurePin_requested ho rfl hk' hc (PortTable.get_set_self ..) hw')
  have h4 := shows_direction_enable ho (hs3.after h3 hs.busy) rfl hc (PortTable.get_set_self ..)
  rw [← setBank_setBank s.regs p b', ← setBank_setBank _ p b'']
  exact .writing h2 rfl (.writing h3 rfl h4)

/-- S0 and S1, then the rest (40 R110, R111). -/
theorem shows_start {n : Nat} {ts : List RegPort} {t : State} (hs : Accepted (.configurePin port pin dir res) s)
    (hrest : Shows n (portClocked p r s) ts t) :
    Shows (n + 2) s
      (.writing .sysClkgate (oneHot (s.board.clkBit p)) (oneHot (s.board.clkBit p)) true :: ts) t := by
  have h0 := hs.inProgress.step_eq.trans (exec_configurePin_start ho hs.stepNo)
  have hs1 := hs.inProgress.after h0 hs.busy
  have h1 := hs1.step_eq.trans (exec_configurePin_clock ho rfl)
  exact .silent h0 rfl (.writing h1 rfl hrest)

end

/-! ### The statements about CONFIGURE_PIN -/

/-- Settles O15, by what the check of S0 accepts (`configureOperands_isSome_iff`). -/
theorem configurePinValidation : Obligations.ConfigurePinValidation := by
  intro port pin dir res s h0
  rw [← configureOperands_isSome_iff]
  cases ho : configureOperands port pin res with
  | none => exact ⟨nofun, fun _ => ⟨s.stepNo, exec_configurePin_reject ho h0⟩⟩
  | some x => exact ⟨fun _ => exec_configurePin_start ho h0, fun hn => absurd rfl hn⟩

/-- Settles O16, by the equation of each step. -/
theorem configurePinSteps : Obligations.ConfigurePinSteps := by
  intro port pin dir res p i r s hp hi hr m c d b
  have ho := configureOperands_eq_some.mpr ⟨hp, hi, hr⟩
  have hd : bitAt (dirValue dir) i.val = d := bitAt_dirValue dir i.val
  refine ⟨fun h => ?_, fun h e hc => ?_, fun h e hc => ?_, fun h e hc => ?_, fun h e hc => ?_, fun h hc => ?_,
    fun h hc => ⟨s.stepNo, exec_configurePin_enable ho h hc rfl⟩⟩
  · rw [← afterClock_eq]; exact exec_configurePin_clock ho h
  · subst e; exact exec_configurePin_opposite ho h rfl hc rfl rfl
  · subst e; exact exec_configurePin_opposite ho h rfl hc rfl rfl
  · subst e; exact exec_configurePin_requested ho h rfl hc rfl rfl
  · subst e; exact exec_configurePin_requested ho h rfl hc rfl rfl
  · rw [← hd]; exact exec_configurePin_direction ho h hc rfl

/-- Settles O17: S0 and S1, then the resistor steps if one is asked for, then S4 and S5. -/
theorem configurePinWholeCommand : Obligations.ConfigurePinWholeCommand := by
  refine ⟨fun port pin dir res p i r s hp hi hr hs => ?_, fun port pin dir res s ho hs => ?_⟩
  · intro m c d b clk
    have ho := configureOperands_eq_some.mpr ⟨hp, hi, hr⟩
    have hd : bitAt (dirValue dir) i.val = d := bitAt_dirValue dir i.val
    have hs' := inProgress_portClocked hs.inProgress p r
    have hc := clockOn_portClocked p r s
    rw [← hd]
    refine ⟨fun e => ?_, fun e => ?_, fun e => ?_⟩ <;> subst e
    · obtain ⟨hts, hrun⟩ := shows_start ho hs (shows_direction_enable ho hs' rfl hc rfl)
      exact ⟨hts, 5, hrun⟩
    · obtain ⟨hts, hrun⟩ := shows_start ho hs (shows_resistor ho hs' rfl rfl rfl hc rfl rfl rfl)
      exact ⟨hts, 5, hrun⟩
    · obtain ⟨hts, hrun⟩ := shows_start ho hs (shows_resistor ho hs' rfl rfl rfl hc rfl rfl rfl)
      exact ⟨hts, 5, hrun⟩
  · have h0 := hs.inProgress.step_eq.trans (exec_configurePin_reject ho hs.stepNo)
    obtain ⟨hts, hrun⟩ := Shows.silent h0 rfl (.nil _)
    exact ⟨hts, s.stepNo, hrun⟩

end Machine
end Sys2Proof

/-! SUPPORT AND PROOFS, family 41_interrupt_attach: one equation per step of ATTACH_INTERRUPT, its undisturbed run, and the
statements about it (41 R126 to R133). -/

namespace Sys2Proof.Machine

/-! ### The operands -/

/-- The both-edges bit in its place: set for BothEdges, clear for SingleEdge (30 R91). -/
theorem bitAt_edgeValue (edge : EdgeMode) (i : Nat) :
    bitAt (edgeValue edge) i = if edge = .both then oneHot i else 0 := by
  cases edge <;> rfl

theorem attachOperands_isSome_iff {port : BitVec 4} {pin prio : BitVec 8} :
    (attachOperands port pin prio).isSome = true ↔ port.toNat ≤ 5 ∧ pin.toNat ≤ 7 ∧ prio.toNat ≤ 7 := by
  simp only [attachOperands_isSome, Bool.and_eq_true, decide_eq_true_eq, and_assoc]

/-- A checked priority is its own three low bits (41 R131). -/
theorem prioWord_of_le {prio : BitVec 8} (h : prio.toNat ≤ 7) : prioWord prio = BitVec.ofNat 32 prio.toNat := by
  apply BitVec.eq_of_toNat_eq
  simp only [prioWord, BitVec.toNat_setWidth, BitVec.extractLsb'_toNat, BitVec.toNat_ofNat, Nat.shiftRight_zero]
  omega

/-! ### Banks -/

/-- Clearing pending flags through ICR is clearing those bits of PEND (10 R40). -/
theorem clearPending_self (pend m : RegWord) : clearPending pend m m = merge pend m 0 := by
  simp [clearPending, merge]

theorem setBank_get_self (g : RegSpace) (p : Port) : setBank g p (g.banks.get p) = g := by
  simp only [setBank, PortTable.set_get_self]

/-- The bank after S1 to S4: the pin edge-sensed with its both-edges bit written, its pending flag cleared, and armed. -/
def Bank.armed (b : Bank) (i : Fin 8) (edge : EdgeMode) : Bank :=
  { b with
    is := merge b.is (oneHot i.val) 0
    ibe := merge b.ibe (oneHot i.val) (bitAt (edgeValue edge) i.val)
    pend := merge b.pend (oneHot i.val) 0
    im := merge b.im (oneHot i.val) (oneHot i.val) }

/-- The register space after S5 and S6: the line has the priority and is enabled. -/
def RegSpace.withLine (g : RegSpace) (l : Nat) (prio : BitVec 8) : RegSpace :=
  { g with
    icPri := lineWrite g.icPri l (merge (lineRead g.icPri l) 0x7 (BitVec.ofNat 32 prio.toNat))
    icEn := lineWrite g.icEn l (merge (lineRead g.icEn l) 0x1 0x1) }

/-- The state in which ATTACH_INTERRUPT leaves the machine, with `g` in the register space. -/
def interruptAttached (p : Port) (g : RegSpace) (s : State) : State :=
  { s with
    busy := false, stepNo := 6, rsp := some ⟨0, 0⟩
    regPort := .writing (.icEn (s.board.irqLine p)) 0x1 0x1 true, regs := g }

/-! ### One equation per step -/

section
variable {port : BitVec 4} {pin prio : BitVec 8} {edge : EdgeMode} {p : Port} {i : Fin 8} {s : State}

/-- S0 rejects operands out of range (41 R126). -/
theorem exec_attachInterrupt_reject (ho : attachOperands port pin prio = none) (h : s.stepNo = 0) :
    exec (.attachInterrupt port pin prio edge) s = .next (s.respond statusInvalidParameter 0) := by
  rw [exec_attachInterrupt_zero h, ho]; exact checkThenStart_false s

variable (ho : attachOperands port pin prio = some (p, i))
include ho

/-- S0 goes on with checked operands (41 R126). -/
theorem exec_attachInterrupt_start (h : s.stepNo = 0) :
    exec (.attachInterrupt port pin prio edge) s = .next (s.goto 1) := by
  rw [exec_attachInterrupt_zero h, ho]; exact checkThenStart_true s

/-- A step that writes the register `k` of the port's bank `b`, which leaves the bank `b'`, and goes on to step `n`: the shape of
S1 to S4. -/
theorem exec_attachInterrupt_bank {k : BankReg} {m v : RegWord} {b b' : Bank} {g : RegSpace} {n : StepNo}
    (h0 : s.stepNo ≠ 0) (hstep : attachStep p i prio edge s = thenGoto n (memWriteMasked (.gpio p k) m v s))
    (hc : clockOn s.board s.regs p = true) (hg : s.regs = setBank g p b) (hw : bankWrite b k m v = some b') :
    exec (.attachInterrupt port pin prio edge) s = .next ((s.wrote (.gpio p k) m v (setBank g p b')).goto n) := by
  have hw' : bankWrite (s.regs.banks.get p) k m v = some b' := by
    rw [hg, setBank_banks, PortTable.get_set_self]; exact hw
  rw [exec_attachInterrupt_of_operands ho h0, hstep, memWriteMasked_gpio_of_clockOn hc hw', thenGoto_next, hg,
    setBank_setBank]

/-- S1: the sense (41 R127). -/
theorem exec_attachInterrupt_sense {b : Bank} {g : RegSpace} (h : s.stepNo = 1)
    (hc : clockOn s.board s.regs p = true) (hg : s.regs = setBank g p b) :
    exec (.attachInterrupt port pin prio edge) s =
      .next ((s.wrote (.gpio p .is) (oneHot i.val) 0
        (setBank g p { b with is := merge b.is (oneHot i.val) 0 })).goto 2) :=
  exec_attachInterrupt_bank ho (by rw [h]; decide) (by rw [attachStep, h]; rfl) hc hg rfl

/-- S2: the edge mode (41 R128). -/
theorem exec_attachInterrupt_edge {b : Bank} {g : RegSpace} (h : s.stepNo = 2)
    (hc : clockOn s.board s.regs p = true) (hg : s.regs = setBank g p b) :
    exec (.attachInterrupt port pin prio edge) s =
      .next ((s.wrote (.gpio p .ibe) (oneHot i.val) (bitAt (edgeValue edge) i.val)
        (setBank g p { b with ibe := merge b.ibe (oneHot i.val) (bitAt (edgeValue edge) i.val) })).goto 3) :=
  exec_attachInterrupt_bank ho (by rw [h]; decide) (by rw [attachStep, h]; rfl) hc hg rfl

/-- S3: the pending flag, cleared through ICR (41 R129). -/
theorem exec_attachInterrupt_clear {b : Bank} {g : RegSpace} (h : s.stepNo = 3)
    (hc : clockOn s.board s.regs p = true) (hg : s.regs = setBank g p b) :
    exec (.attachInterrupt port pin prio edge) s =
      .next ((s.wrote (.gpio p .icr) (oneHot i.val) (oneHot i.val)
        (setBank g p { b with pend := merge b.pend (oneHot i.val) 0 })).goto 4) :=
  exec_attachInterrupt_bank ho (by rw [h]; decide) (by rw [attachStep, h]; rfl) hc hg
    (by rw [bankWrite, clearPending_self])

/-- S4: the mask bit (41 R130). -/
theorem exec_attachInterrupt_arm {b : Bank} {g : RegSpace} (h : s.stepNo = 4)
    (hc : clockOn s.board s.regs p = true) (hg : s.regs = setBank g p b) :
    exec (.attachInterrupt port pin prio edge) s =
      .next ((s.wrote (.gpio p .im) (oneHot i.val) (oneHot i.val)
        (setBank g p { b with im := merge b.im (oneHot i.val) (oneHot i.val) })).goto 5) :=
  exec_attachInterrupt_bank ho (by rw [h]; decide) (by rw [attachStep, h]; rfl) hc hg rfl

/-- S5: the priority of the port's line (41 R131). -/
theorem exec_attachInterrupt_priority {l : Nat} (h : s.stepNo = 5) (he : s.board.irqLine p = l)
    (hl : l < s.board.nlines) :
    exec (.attachInterrupt port pin prio edge) s =
      .next ((s.wrote (.icPri l) 0x7 (BitVec.ofNat 32 prio.toNat)
        { s.regs with
          icPri := lineWrite s.regs.icPri l
            (merge (lineRead s.regs.icPri l) 0x7 (BitVec.ofNat 32 prio.toNat)) }).goto 6) := by
  subst he
  obtain ⟨-, -, hprio⟩ := attachOperands_eq_some.mp ho
  have hstep : attachStep p i prio edge s = thenGoto 6 (setPriority (s.board.irqLine p) prio s) := by
    rw [attachStep, h]; rfl
  rw [exec_attachInterrupt_of_operands ho (by rw [h]; decide), hstep, setPriority, prioWord_of_le hprio,
    memWriteMasked_icPri, if_pos hl, thenGoto_next]

/-- S6: the enable of the port's line, and the response (41 R132). -/
theorem exec_attachInterrupt_enable {l : Nat} (h : s.stepNo = 6) (he : s.board.irqLine p = l)
    (hl : l < s.board.nlines) :
    exec (.attachInterrupt port pin prio edge) s =
      .next ((s.wrote (.icEn l) 0x1 0x1
        { s.regs with icEn := lineWrite s.regs.icEn l (merge (lineRead s.regs.icEn l) 0x1 0x1) }).respond
          statusOk 0) := by
  subst he
  have hstep : attachStep p i prio edge s = thenDone (enableLine (s.board.irqLine p) s) := by
    rw [attachStep, h]; rfl
  rw [exec_attachInterrupt_of_operands ho (by rw [h]; decide), hstep, enableLine, memWriteMasked_icEn, if_pos hl,
    thenDone_next]

/-! ### The whole command, from its last steps back to its first -/

/-- S5 and S6 (41 R131, R132). -/
theorem shows_line {l : Nat} (hs : InProgress (.attachInterrupt port pin prio edge) s) (h : s.stepNo = 5)
    (he : s.board.irqLine p = l) (hl : l < s.board.nlines) :
    Shows 2 s [.writing (.icPri l) 0x7 (BitVec.ofNat 32 prio.toNat) true, .writing (.icEn l) 0x1 0x1 true]
      (interruptAttached p (s.regs.withLine l prio) s) := by
  subst he
  have h5 := hs.step_eq.trans (exec_attachInterrupt_priority ho h rfl hl)
  have hs6 := hs.after h5 hs.busy
  have h6 := hs6.step_eq.trans (exec_attachInterrupt_enable ho rfl rfl hl)
  exact .writing h5 rfl (.writing h6 rfl (.nil _))

/-- S3 to S6: the pending flag and the mask bit, then the line (41 R129 to R132). -/
theorem shows_clear_arm {b : Bank} {g : RegSpace} {l : Nat} (hs : InProgress (.attachInterrupt port pin prio edge) s)
    (h : s.stepNo = 3) (hc : clockOn s.board s.regs p = true) (hg : s.regs = setBank g p b)
    (he : s.board.irqLine p = l) (hl : l < s.board.nlines) :
    Shows 4 s
      [.writing (.gpio p .icr) (oneHot i.val) (oneHot i.val) true,
        .writing (.gpio p .im) (oneHot i.val) (oneHot i.val) true,
        .writing (.icPri l) 0x7 (BitVec.ofNat 32 prio.toNat) true, .writing (.icEn l) 0x1 0x1 true]
      (interruptAttached p
        ((setBank g p { b with
          pend := merge b.pend (oneHot i.val) 0
          im := merge b.im (oneHot i.val) (oneHot i.val) }).withLine l prio) s) := by
  have hc' : clockOn s.board (setBank g p b) p = true := hg ▸ hc
  have h3 := hs.step_eq.trans (exec_attachInterrupt_clear ho h hc hg)
  have hs4 := hs.after h3 hs.busy
  have h4 := hs4.step_eq.trans (exec_attachInterrupt_arm ho rfl hc' rfl)
  have h5 := shows_line ho (hs4.after h4 hs.busy) rfl he hl
  exact .writing h3 rfl (.writing h4 rfl h5)

/-- S1 to S6: the sense and the edge mode, then the rest (41 R127 to R132). -/
theorem shows_sense_edge {b : Bank} {l : Nat} (hs : InProgress (.attachInterrupt port pin prio edge) s)
    (h : s.stepNo = 1) (hc : clockOn s.board s.regs p = true) (hb : s.regs.banks.get p = b)
    (he : s.board.irqLine p = l) (hl : l < s.board.nlines) :
    Shows 6 s
      [.writing (.gpio p .is) (oneHot i.val) 0 true,
        .writing (.gpio p .ibe) (oneHot i.val) (bitAt (edgeValue edge) i.val) true,
        .writing (.gpio p .icr) (oneHot i.val) (oneHot i.val) true,
        .writing (.gpio p .im) (oneHot i.val) (oneHot i.val) true,
        .writing (.icPri l) 0x7 (BitVec.ofNat 32 prio.toNat) true, .writing (.icEn l) 0x1 0x1 true]
      (interruptAttached p ((setBank s.regs p (b.armed i edge)).withLine l prio) s) := by
  subst hb
  have h1 := hs.step_eq.trans (exec_attachInterrupt_sense ho h hc (setBank_get_self s.regs p).symm)
  have hs2 := hs.after h1 hs.busy
  have h2 := hs2.step_eq.trans (exec_attachInterrupt_edge ho rfl hc rfl)
  have h3 := shows_clear_arm ho (hs2.after h2 hs.busy) rfl hc rfl he hl
  exact .writing h1 rfl (.writing h2 rfl h3)

end

/-! ### The statements about ATTACH_INTERRUPT -/

/-- Settles O20, by what the check of S0 accepts (`attachOperands_isSome_iff`). -/
theorem attachInterruptValidation : Obligations.AttachInterruptValidation := by
  intro port pin prio edge s h0
  rw [← attachOperands_isSome_iff]
  cases ho : attachOperands port pin prio with
  | none => exact ⟨nofun, fun _ => ⟨s.stepNo, exec_attachInterrupt_reject ho h0⟩⟩
  | some x => exact ⟨fun _ => exec_attachInterrupt_start ho h0, fun hn => absurd rfl hn⟩

/-- Settles O21, by the equation of each step. -/
theorem attachInterruptSteps : Obligations.AttachInterruptSteps := by
  intro port pin prio edge p i s hp hi hprio m e b l
  have ho := attachOperands_eq_some.mpr ⟨hp, hi, hprio⟩
  have he : bitAt (edgeValue edge) i.val = e := bitAt_edgeValue edge i.val
  have hg : s.regs = setBank s.regs p b := (setBank_get_self s.regs p).symm
  rw [← he]
  exact ⟨fun h hc => exec_attachInterrupt_sense ho h hc hg, fun h hc => exec_attachInterrupt_edge ho h hc hg,
    fun h hc => exec_attachInterrupt_clear ho h hc hg, fun h hc => exec_attachInterrupt_arm ho h hc hg,
    fun h hl => exec_attachInterrupt_priority ho h rfl hl,
    fun h hl => ⟨s.stepNo, exec_attachInterrupt_enable ho h rfl hl⟩⟩

/-- Settles O22: S0, then the bank's four writes and the line's two (`shows_sense_edge`); or the rejection in S0. -/
theorem attachInterruptWholeCommand : Obligations.AttachInterruptWholeCommand := by
  refine ⟨fun port pin prio edge p i s hp hi hprio hs hc hl => ?_, fun port pin prio edge s ho hs => ?_⟩
  · intro m e b l v
    have ho := attachOperands_eq_some.mpr ⟨hp, hi, hprio⟩
    have he : bitAt (edgeValue edge) i.val = e := bitAt_edgeValue edge i.val
    have h0 := hs.inProgress.step_eq.trans (exec_attachInterrupt_start ho hs.stepNo)
    have hs1 := hs.inProgress.after h0 hs.busy
    obtain ⟨hts, hrun⟩ := Shows.silent h0 rfl (shows_sense_edge ho hs1 rfl hc rfl rfl hl)
    rw [← he]
    exact ⟨hts, 6, hrun⟩
  · have h0 := hs.inProgress.step_eq.trans (exec_attachInterrupt_reject ho hs.stepNo)
    obtain ⟨hts, hrun⟩ := Shows.silent h0 rfl (.nil _)
    exact ⟨hts, s.stepNo, hrun⟩

end Sys2Proof.Machine

/-! SUPPORT AND PROOFS, family 42_actuator_pwm: one equation per step of the direction commands, INIT_PWM and SET_DUTY, their
undisturbed runs, and the statements about them (42 R143 to R160). -/

namespace Sys2Proof

open Machine

/-- A step with an acknowledged read, then the rest. -/
theorem Shows.reading {n : Nat} {s u t : State} {r : RegId} {w : RegWord} {ts : List RegPort} (h : step s = .next u)
    (hport : u.regPort = .reading r (some w)) (hrest : Shows n u ts t) :
    Shows (n + 1) s (.reading r (some w) :: ts) t := by
  obtain ⟨hts, hrun⟩ := hrest
  exact ⟨by rw [transactions_succ h, hport, hts]; rfl, runs_succ.mpr ⟨u, h, hrun⟩⟩

/-- What the invariant says of a command in progress. -/
theorem Inv.commandProgress {i : Instr} {s : State} (hs : Inv s) (hb : s.busy = true) (hd : decode s.cmd = .command i) :
    commandProgress i s.stepNo.toNat s := by
  have hp := hs.progress hb
  rw [sequencerInv, hd] at hp
  exact hp

namespace Machine

/-! ### Masked writes -/

/-- Writing zeros clears the bits of the mask. -/
theorem merge_zeros (w m : RegWord) : merge w m 0 = w &&& ~~~m := by simp [merge]

/-- Writing ones sets the bits of the mask. -/
theorem merge_ones (w m : RegWord) : merge w m m = w ||| m := by
  apply BitVec.eq_of_getLsbD_eq
  intro j _
  rw [merge_getLsbD, BitVec.getLsbD_or]
  cases m.getLsbD j <;> simp

/-- A write of the field of a PWM register puts the value there (10 R47, R48). -/
theorem pwmField_merge (w : RegWord) (v : PwmWord) : pwmField (merge w 0xFFFF (v.setWidth 32)) = v :=
  (merge_slice_written _ _ _ 0 16 (by decide)).trans (pwmField_setWidth v)

/-! ### The direction commands, step by step -/

section
variable {off on : Nat} {s : State}

/-- S0 makes no transaction (42 R143, R144). -/
theorem driveStep_start (h : s.stepNo = 0) : driveStep off on s = .next (s.goto 1) := by rw [driveStep, h]; rfl

/-- S1: break (42 R143, R144). -/
theorem driveStep_break (h : s.stepNo = 1) :
    driveStep off on s =
      .next ((s.wrote .actDrv (oneHot off) 0 { s.regs with actDrv := s.regs.actDrv &&& ~~~oneHot off }).goto 2) := by
  rw [← merge_zeros, driveStep, h]; rfl

/-- S2: make, and the response (42 R143, R144). -/
theorem driveStep_make (h : s.stepNo = 2) :
    driveStep off on s =
      .next ((s.wrote .actDrv (oneHot on) (oneHot on)
        { s.regs with actDrv := s.regs.actDrv ||| oneHot on }).respond statusOk 0) := by
  rw [← merge_ones, driveStep, h]; rfl

theorem exec_actStop_start (h : s.stepNo = 0) : exec .actStop s = .next (s.goto 1) := by
  rw [exec, execActStop, h]; rfl

/-- S1 of ACT_STOP: both lines at once, and the response (42 R145). -/
theorem exec_actStop_release (h : s.stepNo = 1) :
    exec .actStop s =
      .next ((s.wrote .actDrv 0x3 0x0 { s.regs with actDrv := s.regs.actDrv &&& ~~~0x3 }).respond statusOk 0) := by
  rw [← merge_zeros, exec, execActStop, h]; rfl

end

/-! ### The transition table -/

theorem driveLines_and (g : RegSpace) (m : RegWord) :
    driveLines { g with actDrv := g.actDrv &&& m } = driveLines g &&& m.extractLsb' 0 2 := BitVec.extractLsb'_and

theorem driveLines_or (g : RegSpace) (m : RegWord) :
    driveLines { g with actDrv := g.actDrv ||| m } = driveLines g ||| m.extractLsb' 0 2 := BitVec.extractLsb'_or

/-- Keeping only some lines and then asserting those leaves just them, from all four values of the lines. -/
theorem lines_and_or_self (l a : BitVec 2) : l &&& a ||| a = a := by revert l a; decide

/-- An undisturbed ACT_FORWARD or ACT_REVERSE: the break leaves of the lines only the one the command asserts, `lines`, so the
make ends with that one alone, whatever the lines were before (42 R146). -/
theorem runs_break_make {i : Instr} {off on : Nat} {lines : BitVec 2} {s : State} (hi : exec i = driveStep off on)
    (hoff : (~~~oneHot off).extractLsb' 0 2 = lines) (hon : (oneHot on).extractLsb' 0 2 = lines) (hs : Accepted i s) :
    ∃ t u, runs 2 s t ∧ runs 3 s u ∧ u.busy = false ∧ u.rsp = some ⟨0, 0⟩ ∧
      driveLines t.regs = driveLines s.regs &&& lines ∧ driveLines u.regs = lines := by
  have h0 := hs.inProgress.step_eq.trans ((congrFun hi _).trans (driveStep_start hs.stepNo))
  have hs1 := hs.inProgress.after h0 hs.busy
  have h1 := hs1.step_eq.trans ((congrFun hi _).trans (driveStep_break rfl))
  have hs2 := hs1.after h1 hs.busy
  have h2 := hs2.step_eq.trans ((congrFun hi _).trans (driveStep_make rfl))
  have hbroken := driveLines_and s.regs (~~~oneHot off)
  have hmade := driveLines_or { s.regs with actDrv := s.regs.actDrv &&& ~~~oneHot off } (oneHot on)
  rw [hoff] at hbroken
  rw [hbroken, hon, lines_and_or_self] at hmade
  exact ⟨_, _, runs_succ.mpr ⟨_, h0, runs_succ.mpr ⟨_, h1, runs_zero.mpr rfl⟩⟩,
    runs_succ.mpr ⟨_, h0, runs_succ.mpr ⟨_, h1, runs_succ.mpr ⟨_, h2, runs_zero.mpr rfl⟩⟩⟩, rfl, rfl, hbroken, hmade⟩

/-- An undisturbed ACT_STOP ends with both lines deasserted (42 R146). -/
theorem runs_actStop {s : State} (hs : Accepted .actStop s) :
    ∃ u, runs 2 s u ∧ u.busy = false ∧ u.rsp = some ⟨0, 0⟩ ∧ driveLines u.regs = 0b00 := by
  have h0 := hs.inProgress.step_eq.trans (exec_actStop_start hs.stepNo)
  have hs1 := hs.inProgress.after h0 hs.busy
  have h1 := hs1.step_eq.trans (exec_actStop_release rfl)
  have hstopped := driveLines_merge_stop s.regs
  rw [merge_zeros] at hstopped
  exact ⟨_, runs_succ.mpr ⟨_, h0, runs_succ.mpr ⟨_, h1, runs_zero.mpr rfl⟩⟩, rfl, rfl, hstopped⟩

/-! ### PWM.CTL -/

/-- A write of EN = 0 never reloads (42 R168). -/
theorem writePwmCtl_stop (g : RegSpace) :
    writePwmCtl 0x3 0x0 g = { g with pwmCtl := g.pwmCtl &&& ~~~0x3 } := by
  rw [← merge_zeros]
  rcases writePwmCtl_cases 0x3 0x0 g with ⟨⟨-, h⟩, -⟩ | ⟨-, e⟩
  · rw [pwmEnabled, merge_getLsbD] at h; cases h
  · exact e

/-- The start of a stopped generator reloads (42 R168). -/
theorem writePwmCtl_start {g : RegSpace} (h : pwmEnabled g.pwmCtl = false) :
    writePwmCtl 0x3 0x1 g = reloadPwm { g with pwmCtl := merge g.pwmCtl 0x3 0x1 } := by
  rcases writePwmCtl_cases 0x3 0x1 g with ⟨-, e⟩ | ⟨h' | h', -⟩
  · exact e
  · rw [h] at h'; cases h'
  · rw [pwmEnabled, merge_getLsbD] at h'; cases h'

theorem pwmEnabled_stopped (w : RegWord) : pwmEnabled (w &&& ~~~0x3) = false := by
  rw [← merge_zeros, pwmEnabled, merge_getLsbD]; rfl

/-! ### The bound on compare values -/

theorem boundedCompare_of_le {cmp load : PwmWord} (h : cmp.toNat ≤ load.toNat) : boundedCompare cmp load = cmp := if_pos h

theorem boundedCompare_of_lt {cmp load : PwmWord} (h : load.toNat < cmp.toNat) : boundedCompare cmp load = load :=
  if_neg (Nat.not_le.mpr h)

/-! ### INIT_PWM and SET_DUTY, step by step -/

section
variable {load cmp : PwmWord} {s : State}

theorem exec_initPwm_start (h : s.stepNo = 0) : exec (.initPwm load cmp) s = .next (s.goto 1) := by
  rw [exec, execInitPwm, h]; rfl

/-- S1: the generator stopped (42 R155). -/
theorem exec_initPwm_stop (h : s.stepNo = 1) :
    exec (.initPwm load cmp) s =
      .next ((s.wrote .pwmCtl 0x3 0x0 { s.regs with pwmCtl := s.regs.pwmCtl &&& ~~~0x3 }).goto 2) := by
  rw [← writePwmCtl_stop, exec, execInitPwm, h]; rfl

/-- S2: the load value (42 R155). -/
theorem exec_initPwm_load (h : s.stepNo = 2) :
    exec (.initPwm load cmp) s =
      .next ((s.wrote .pwmLoad 0xFFFF (load.setWidth 32)
        { s.regs with pwmLoad := merge s.regs.pwmLoad 0xFFFF (load.setWidth 32) }).goto 3) := by
  rw [exec, execInitPwm, h]; rfl

/-- S3: the bounded compare value (42 R155). -/
theorem exec_initPwm_compare (h : s.stepNo = 3) :
    exec (.initPwm load cmp) s =
      .next ((s.wrote .pwmCmp 0xFFFF ((boundedCompare cmp load).setWidth 32)
        { s.regs with pwmCmp := merge s.regs.pwmCmp 0xFFFF ((boundedCompare cmp load).setWidth 32) }).goto 4) := by
  rw [exec, execInitPwm, h]; rfl

/-- S4: a stopped generator started, and the response (42 R155, R168). -/
theorem exec_initPwm_run (h : s.stepNo = 4) (he : pwmEnabled s.regs.pwmCtl = false) :
    exec (.initPwm load cmp) s =
      .next ((s.wrote .pwmCtl 0x3 0x1
        (reloadPwm { s.regs with pwmCtl := merge s.regs.pwmCtl 0x3 0x1 })).respond statusOk 0) := by
  rw [← writePwmCtl_start he, exec, execInitPwm, h]; rfl

theorem exec_setDuty_start (h : s.stepNo = 0) : exec (.setDuty cmp) s = .next (s.goto 1) := by
  rw [exec, execSetDuty, h]; rfl

/-- S1: the load value into TMP (42 R159). -/
theorem exec_setDuty_read (h : s.stepNo = 1) :
    exec (.setDuty cmp) s =
      .next (((s.didRead .pwmLoad s.regs.pwmLoad s.regs).withTmp (pwmField s.regs.pwmLoad)).goto 2) := by
  rw [exec, execSetDuty, h]; rfl

/-- S2: the bounded compare value, and the response (42 R159). -/
theorem exec_setDuty_compare (h : s.stepNo = 2) :
    exec (.setDuty cmp) s =
      .next ((s.wrote .pwmCmp 0xFFFF ((boundedCompare cmp s.tmp).setWidth 32)
        { s.regs with pwmCmp := merge s.regs.pwmCmp 0xFFFF ((boundedCompare cmp s.tmp).setWidth 32) }).respond
          statusOk 0) := by
  rw [exec, execSetDuty, h]; rfl

end

/-- The register space after INIT_PWM: the three registers written, and the reload of the start (42 R155, R168). -/
def RegSpace.withPwm (g : RegSpace) (load cmp : PwmWord) : RegSpace :=
  reloadPwm { g with
    pwmCtl := merge (g.pwmCtl &&& ~~~0x3) 0x3 0x1
    pwmLoad := merge g.pwmLoad 0xFFFF (load.setWidth 32)
    pwmCmp := merge g.pwmCmp 0xFFFF ((boundedCompare cmp load).setWidth 32) }

/-- The state in which INIT_PWM leaves the machine. -/
def pwmInitialised (load cmp : PwmWord) (s : State) : State :=
  { s with
    busy := false, stepNo := 4, rsp := some ⟨0, 0⟩, regPort := .writing .pwmCtl 0x3 0x1 true
    regs := s.regs.withPwm load cmp }

/-- The whole of INIT_PWM (42 R155). -/
theorem shows_initPwm {load cmp : PwmWord} {s : State} (hs : Accepted (.initPwm load cmp) s) :
    Shows 5 s
      [.writing .pwmCtl 0x3 0x0 true, .writing .pwmLoad 0xFFFF (load.setWidth 32) true,
        .writing .pwmCmp 0xFFFF ((boundedCompare cmp load).setWidth 32) true, .writing .pwmCtl 0x3 0x1 true]
      (pwmInitialised load cmp s) := by
  have h0 := hs.inProgress.step_eq.trans (exec_initPwm_start hs.stepNo)
  have hs1 := hs.inProgress.after h0 hs.busy
  have h1 := hs1.step_eq.trans (exec_initPwm_stop rfl)
  have hs2 := hs1.after h1 hs.busy
  have h2 := hs2.step_eq.trans (exec_initPwm_load rfl)
  have hs3 := hs2.after h2 hs.busy
  have h3 := hs3.step_eq.trans (exec_initPwm_compare rfl)
  have hs4 := hs3.after h3 hs.busy
  have h4 := hs4.step_eq.trans (exec_initPwm_run rfl (pwmEnabled_stopped s.regs.pwmCtl))
  exact .silent h0 rfl (.writing h1 rfl (.writing h2 rfl (.writing h3 rfl (.writing h4 rfl (.nil _)))))

/-! ### The statements about the direction commands -/

/-- Settles O25, by the equation of each step; a set bit in 31:0 is a set bit of the `zero` field (30 R95). -/
theorem actuatorSteps : Obligations.ActuatorSteps := by
  refine ⟨fun s => ⟨fun h i hi => ?_, fun h => ⟨driveStep_break h, driveStep_break h, s.stepNo, exec_actStop_release h⟩,
    fun h => ⟨⟨s.stepNo, driveStep_make h⟩, s.stepNo, driveStep_make h⟩⟩, fun w hop hz => ?_⟩
  · simp only [List.mem_cons, List.not_mem_nil, or_false] at hi
    obtain rfl | rfl | rfl := hi
    · exact driveStep_start h
    · exact driveStep_start h
    · exact exec_actStop_start h
  · exact ⟨_, decode_eq_reservedBitsSet_iff.mpr (.inr (.inr (.inl ⟨List.mem_append_left [0xD#4] hop, hz⟩)))⟩

/-- Settles O26, by the undisturbed run of each direction command. -/
theorem actuatorTransitionTable : Obligations.ActuatorTransitionTable :=
  ⟨fun _ => (by decide : driveLines RegSpace.reset = 0b00), fun _ =>
    ⟨runs_break_make rfl (by decide) (by decide), runs_break_make rfl (by decide) (by decide), runs_actStop⟩⟩

/-! ### The statements about the PWM commands -/

/-- Settles O29, by the run of the whole command; opcode 0x8 has no `zero` field. -/
theorem initPwmWholeCommand : Obligations.InitPwmWholeCommand := by
  refine ⟨fun load cmp s hs => ?_, fun w h => ⟨_, _, decode_of_opcode8 h⟩⟩
  intro cp
  obtain ⟨hts, hrun⟩ := shows_initPwm hs
  exact ⟨hts, _, hrun, rfl, rfl, merge_slice_written _ _ _ 0 2 (by decide), pwmField_merge _ _, pwmField_merge _ _,
    pwmField_merge _ _, pwmField_merge _ _, rfl⟩

/-- Settles O32, by the equations of its three steps; a set bit in 31:16 is a set bit of the `zero` field (30 R95). -/
theorem setDutyWholeCommand : Obligations.SetDutyWholeCommand := by
  refine ⟨fun cmp s hs => ?_, fun w hop hz => ?_⟩
  · intro load cp
    have h0 := hs.inProgress.step_eq.trans (exec_setDuty_start hs.stepNo)
    have hs1 := hs.inProgress.after h0 hs.busy
    have h1 := hs1.step_eq.trans (exec_setDuty_read rfl)
    have hs2 := hs1.after h1 hs.busy
    have h2 := hs2.step_eq.trans (exec_setDuty_compare rfl)
    obtain ⟨hts, hrun⟩ := Shows.silent h0 rfl (.reading h1 rfl (.writing h2 rfl (.nil _)))
    exact ⟨hts, 2, load, hrun⟩
  · exact ⟨_, decode_eq_reservedBitsSet_iff.mpr (.inr (.inr (.inr (.inl ⟨hop, hz⟩))))⟩

/-- Settles O33: at S2 the invariant has the load value in TMP, so the write of S2 is bounded by it. -/
theorem setDutyClamps : Obligations.SetDutyClamps := by
  intro cmp s hs hb hd h2
  obtain ⟨-, htmp⟩ := hs.commandProgress hb hd
  have htmp : s.tmp = pwmField s.regs.pwmLoad := htmp (by rw [h2]; rfl)
  refine ⟨_, exec_setDuty_compare h2, rfl, fun hle => ?_, fun hlt => ?_, rfl, rfl⟩
  · rw [← htmp] at hle
    exact (pwmField_merge _ _).trans (boundedCompare_of_le hle)
  · rw [← htmp] at hlt ⊢
    exact (pwmField_merge _ _).trans (boundedCompare_of_lt hlt)

end Machine
end Sys2Proof

/-! SUPPORT AND PROOFS, family 43_serial: one equation per step of TRANSMIT_BYTE and RECEIVE_BYTE, and the statements about them
(43 R175, R181). -/

namespace Sys2Proof.Machine

/-! ### TRANSMIT_BYTE and RECEIVE_BYTE, step by step -/

/-- A polling step: the flags are read with no effect on the register space, and the flag chooses the next step (43 R185). -/
theorem pollFlag_eq (flag : RegWord → Bool) (s : State) :
    pollFlag flag s =
      .next ((s.didRead .uartFlags (flagsWord s.regs) s.regs).goto (if flag (flagsWord s.regs) then 2 else 1)) := rfl

section
variable {byte : Byte} {s : State}

theorem exec_transmitByte_start (h : s.stepNo = 0) : exec (.transmitByte byte) s = .next (s.goto 1) := by
  rw [exec, execTransmitByte, h]; rfl

/-- S1: the poll of TXRDY (43 R175). -/
theorem exec_transmitByte_poll (h : s.stepNo = 1) :
    exec (.transmitByte byte) s =
      .next ((s.didRead .uartFlags (flagsWord s.regs) s.regs).goto (if s.regs.txRdy then 2 else 1)) := by
  rw [← txRdyOf_flagsWord s.regs, ← pollFlag_eq, exec, execTransmitByte, h]; rfl

/-- S2: the byte sent while TXRDY = 1, and the response (43 R175, R187). -/
theorem exec_transmitByte_send (h : s.stepNo = 2) (hr : s.regs.txRdy = true) :
    exec (.transmitByte byte) s =
      .next ((s.wrote .uartData 0xFF (byte.setWidth 32)
        (sendByte (Config.txStaysReady s.draws) byte s.regs)).respond statusOk 0) := by
  have hw := memWriteMasked_uartData 0xFF (byte.setWidth 32) s
  rw [if_pos hr, byteField_setWidth] at hw
  rw [← thenDone_next, ← hw, exec, execTransmitByte, h]; rfl

theorem exec_receiveByte_start (h : s.stepNo = 0) : exec .receiveByte s = .next (s.goto 1) := by
  rw [exec, execReceiveByte, h]; rfl

/-- S1: the poll of RXAVL (43 R181). -/
theorem exec_receiveByte_poll (h : s.stepNo = 1) :
    exec .receiveByte s =
      .next ((s.didRead .uartFlags (flagsWord s.regs) s.regs).goto (if rxAvl s.regs then 2 else 1)) := by
  rw [← rxAvlOf_flagsWord s.regs, ← pollFlag_eq, exec, execReceiveByte, h]; rfl

/-- S2: the oldest byte taken from RXQ, and the response with it (43 R181, R189). -/
theorem exec_receiveByte_take {rest : List Byte} (h : s.stepNo = 2) (hq : s.regs.rxq = byte :: rest) :
    exec .receiveByte s =
      .next ((s.didRead .uartData (s.regs.dataHi ++ byte) { s.regs with rxq := rest }).respond statusOk byte) := by
  have hstep : exec .receiveByte s =
      bindNext (memRead .uartData s) fun x => .next (x.2.respond statusOk (byteField x.1)) := by
    rw [exec, execReceiveByte, h]; rfl
  rw [hstep, memRead_uartData hq, bindNext_next, byteField_append]

end

/-- The next step of the poll of RXAVL, in terms of the queue (43 R188). -/
theorem ite_rxAvl (g : RegSpace) : (if rxAvl g then 2 else 1 : StepNo) = if g.rxq = [] then 1 else 2 := by
  cases h : g.rxq with
  | nil => simp [rxAvl, h]
  | cons b rest => simp [rxAvl, h]

/-! ### The statements about the serial commands -/

/-- Settles O37, by the equation of each step; TXRDY after the write is the free value of 43 R187. -/
theorem transmitByteSteps : Obligations.TransmitByteSteps := fun _ s =>
  ⟨exec_transmitByte_start, exec_transmitByte_poll,
    fun h hr => ⟨Config.txStaysReady s.draws, s.stepNo, exec_transmitByte_send h hr⟩⟩

/-- Settles O38, by the equation of each step. -/
theorem receiveByteSteps : Obligations.ReceiveByteSteps := by
  refine fun s => ⟨exec_receiveByte_start, fun h => ?_, fun b rest h hq => ⟨s.stepNo, exec_receiveByte_take h hq⟩⟩
  rw [← ite_rxAvl]
  exact exec_receiveByte_poll h

end Sys2Proof.Machine

/-! SUPPORT AND PROOFS, family other: the registers of the space one by one, what
a step of any command and a move of any agent can do, the invariant, and the statements that
rest on them. -/

namespace Sys2Proof.Machine

/-! ### The controller's registers by line -/

theorem lineRead_cons (c : Nat × RegWord) (f : LineFile) (l : Nat) :
    lineRead (c :: f) l = if c.1 = l then c.2 else lineRead f l := rfl

/-- Read after write: the written line gives the new word, every other line its old one (10 R42, R43). -/
theorem lineRead_lineWrite {f : LineFile} (hf : f.wf) (l l' : Nat) (v : RegWord) :
    lineRead (lineWrite f l v) l' = if l' = l then v else lineRead f l' := by
  induction f with
  | nil =>
    by_cases hv : v = 0
    · simp [lineWrite, lineRead, hv]
    · simp only [lineWrite, hv, if_false, lineRead_cons, eq_comm (a := l)]
  | cons c rest ih =>
    obtain ⟨habove, -, hrest⟩ := LineFile.wf_cons.mp hf
    have hlow : ∀ n ≤ c.1, lineRead rest n = 0 := fun n hn => lineRead_of_above fun d hd => hn.trans_lt (habove d hd)
    have ih := ih hrest
    rcases Nat.lt_trichotomy l c.1 with hlt | heq | hgt <;> grind [lineWrite, lineRead_cons]

/-- A canonical file reads 0 below its first line, and not 0 there. -/
theorem lineRead_head_ne_zero {c : Nat × RegWord} {f : LineFile} (hf : LineFile.wf (c :: f)) :
    lineRead (c :: f) c.1 ≠ 0 := by
  obtain ⟨-, hne, -⟩ := LineFile.wf_cons.mp hf
  rw [lineRead_cons, if_pos rfl]; exact hne

theorem head_le_of_lineRead_ne_zero {c : Nat × RegWord} {f : LineFile} (hf : LineFile.wf (c :: f)) {l : Nat}
    (h : lineRead (c :: f) l ≠ 0) : c.1 ≤ l := by
  obtain ⟨habove, -, -⟩ := LineFile.wf_cons.mp hf
  by_contra hl
  have hl : l < c.1 := Nat.lt_of_not_le hl
  refine h (lineRead_of_above fun d hd => ?_)
  rcases List.mem_cons.mp hd with rfl | hd
  · exact hl
  · exact hl.trans (habove d hd)

/-- Canonical files that read alike are the same list: the first line is the least that does not read 0. -/
theorem lineFile_ext {f f' : LineFile} (hf : f.wf) (hf' : f'.wf) (h : ∀ l, lineRead f l = lineRead f' l) : f = f' := by
  induction f generalizing f' with
  | nil =>
    cases f' with
    | nil => rfl
    | cons c' rest' => exact absurd (h c'.1).symm (lineRead_head_ne_zero hf')
  | cons c rest ih =>
    cases f' with
    | nil => exact absurd (h c.1) (lineRead_head_ne_zero hf)
    | cons c' rest' =>
      have hline : c.1 = c'.1 := Nat.le_antisymm
        (head_le_of_lineRead_ne_zero hf (h c'.1 ▸ lineRead_head_ne_zero hf'))
        (head_le_of_lineRead_ne_zero hf' (h c.1 ▸ lineRead_head_ne_zero hf))
      obtain ⟨habove, -, hrest⟩ := LineFile.wf_cons.mp hf
      obtain ⟨habove', -, hrest'⟩ := LineFile.wf_cons.mp hf'
      simp only [lineRead_cons, ← hline] at h
      have hword : c.2 = c'.2 := by simpa using h c.1
      rw [show c = c' from Prod.ext hline hword, ih hrest hrest' fun l => ?_]
      by_cases hl : c.1 = l
      · rw [lineRead_of_above fun d hd => hl ▸ habove d hd,
          lineRead_of_above fun d hd => hl ▸ hline ▸ habove' d hd]
      · simpa [hl] using h l

theorem lineRead_lineCanonical {n l : Nat} (hl : l < n) (f : LineFile) :
    lineRead (lineCanonical n f) l = lineRead f l := by
  induction f with
  | nil => rfl
  | cons c rest ih =>
    rw [lineRead_cons, lineCanonical]
    split
    · rw [lineRead_lineWrite (lineCanonical_wf n rest), ih]; simp only [eq_comm]
    · rw [ih, if_neg (by omega)]

end Sys2Proof.Machine

namespace Sys2Proof.Machine

/-! ### The registers of a bank -/

theorem PortTable.get_set {α : Type} (t : PortTable α) (p q : Port) (x : α) :
    (t.set p x).get q = if q = p then x else t.get q := by
  split
  · subst q; exact PortTable.get_set_self t p x
  · exact PortTable.get_set_of_ne t ‹_› x

/-- A masked write to a register that stores (so not ICR) merges the data into it. -/
theorem bankRead_bankWrite_self {b b' : Bank} {k : BankReg} {m v w : RegWord} (hk : k ≠ .icr)
    (h : bankWrite b k m v = some b') (hw : bankRead b k = some w) : bankRead b' k = some (merge w m v) := by
  cases k with
  | pend => cases h
  | icr => exact absurd rfl hk
  | _ => cases h; cases hw; rfl

/-- A masked write leaves the other registers of the bank; a write to ICR also changes PEND (10 R40). -/
theorem bankRead_bankWrite_of_ne {b b' : Bank} {k k' : BankReg} {m v : RegWord} (h : bankWrite b k m v = some b')
    (hne : k ≠ k') (hpend : k' = .pend → k ≠ .icr) : bankRead b' k' = bankRead b k' := by
  cases k with
  | pend => cases h
  | icr =>
    cases h
    cases k' with
    | pend => exact absurd rfl (hpend rfl)
    | _ => rfl
  | _ =>
    cases h
    cases k' <;> simp_all [bankRead]

theorem writePwmCtl_pwmCtl (m v : RegWord) (g : RegSpace) : (writePwmCtl m v g).pwmCtl = merge g.pwmCtl m v := by
  obtain ⟨-, e⟩ | ⟨-, e⟩ := writePwmCtl_cases m v g <;> simp only [e, reloadPwm]

/-! ### What a masked write leaves, register by register -/

section
variable {stays : Bool} {r : RegId} {m v : RegWord} {g g' : RegSpace}

/-- Inversion: a masked write to a bank register. -/
theorem storeReg_gpio {p : Port} {k : BankReg} (h : storeReg stays (.gpio p k) m v g = .next g') :
    ∃ b, bankWrite (g.banks.get p) k m v = some b ∧ g' = setBank g p b := by
  simp only [storeReg] at h
  split at h
  · cases h; exact ⟨_, by assumption, rfl⟩
  · cases h

/-- Inversion: a masked write to UART.DATA sends a byte (43 R187). -/
theorem storeReg_uartData (h : storeReg stays .uartData m v g = .next g') :
    g.txRdy = true ∧ g' = sendByte stays (byteField v) g := by
  simp only [storeReg] at h
  split at h
  · cases h; exact ⟨by assumption, rfl⟩
  · cases h

theorem bankRead_storeReg_of_ne (h : storeReg stays r m v g = .next g') {q : Port} {k : BankReg} (hne : r ≠ .gpio q k)
    (hpend : k = .pend → r ≠ .gpio q .icr) : bankRead (g'.banks.get q) k = bankRead (g.banks.get q) k := by
  cases r with
  | gpio p k' =>
    obtain ⟨b, hb, rfl⟩ := storeReg_gpio h
    rw [setBank_banks, PortTable.get_set]
    split
    · subst q
      exact bankRead_bankWrite_of_ne hb (fun e => hne (e ▸ rfl)) fun e e' => hpend e (e' ▸ rfl)
    · rfl
  | _ =>
    obtain ⟨-, hbanks, -⟩ := storeReg_frame h
    rw [hbanks nofun]

theorem lineRead_icEn_storeReg (hwf : g.icEn.wf) (h : storeReg stays r m v g = .next g') {l : Nat} (hne : r ≠ .icEn l) :
    lineRead g'.icEn l = lineRead g.icEn l := by
  cases r with
  | icEn l' => cases h; rw [lineRead_lineWrite hwf, if_neg]; rintro rfl; exact hne rfl
  | _ =>
    obtain ⟨-, -, hen, -⟩ := storeReg_frame h
    rw [hen nofun]

theorem lineRead_icPri_storeReg (hwf : g.icPri.wf) (h : storeReg stays r m v g = .next g') {l : Nat}
    (hne : r ≠ .icPri l) : lineRead g'.icPri l = lineRead g.icPri l := by
  cases r with
  | icPri l' => cases h; rw [lineRead_lineWrite hwf, if_neg]; rintro rfl; exact hne rfl
  | _ =>
    obtain ⟨-, -, -, hpri, -⟩ := storeReg_frame h
    rw [hpri nofun]

/-- Read after write at the register written, where it stores (20 R64). -/
theorem loadReg_storeReg_self {w w' : RegWord} (hen : g.icEn.wf) (hpri : g.icPri.wf) (hdata : r ≠ .uartData)
    (hicr : ∀ p, r ≠ .gpio p .icr) (h : storeReg stays r m v g = .next g') (hw : loadReg r g = .next (w, g))
    (hw' : loadReg r g' = .next (w', g')) : w' = merge w m v := by
  cases r with
  | gpio p k =>
    obtain ⟨b, hb, rfl⟩ := storeReg_gpio h
    have hk : k ≠ .icr := fun e => hicr p (e ▸ rfl)
    simp only [loadReg] at hw hw'
    split at hw
    · rename_i hread
      cases hw
      rw [setBank_banks, PortTable.get_set_self, bankRead_bankWrite_self hk hb hread] at hw'
      cases hw'; rfl
    · cases hw
  | icEn l => cases h; cases hw; cases hw'; rw [lineRead_lineWrite hen, if_pos rfl]
  | icPri l => cases h; cases hw; cases hw'; rw [lineRead_lineWrite hpri, if_pos rfl]
  | pwmCtl => cases h; cases hw; cases hw'; exact writePwmCtl_pwmCtl m v g
  | uartFlags => cases h
  | uartData => exact absurd rfl hdata
  | _ => cases h; cases hw; cases hw'; rfl

/-- A masked write elsewhere leaves a register's reading; ICR is written apart, as it changes PEND (10 R40). -/
theorem loadReg_storeReg_of_ne {r' : RegId} {w : RegWord} (hen : g.icEn.wf) (hpri : g.icPri.wf) (hdata : r ≠ .uartData)
    (hicr : ∀ p, r ≠ .gpio p .icr) (h : storeReg stays r m v g = .next g') (hne : r' ≠ r)
    (hw : loadReg r' g = .next (w, g)) : loadReg r' g' = .next (w, g') := by
  obtain ⟨hclk, -, -, -, hact, hctl, hload, hcmp, htx, hhi, -, hrxq⟩ := storeReg_frame h
  cases r' with
  | sysClkgate => cases hw; rw [loadReg, hclk hne.symm]
  | gpio p k =>
    simp only [loadReg] at hw ⊢
    rw [bankRead_storeReg_of_ne h hne.symm fun _ => hicr p]
    split at hw
    · cases hw; rfl
    · cases hw
  | icEn l => cases hw; rw [loadReg, lineRead_icEn_storeReg hen h hne.symm]
  | icPri l => cases hw; rw [loadReg, lineRead_icPri_storeReg hpri h hne.symm]
  | actDrv => cases hw; rw [loadReg, hact hne.symm]
  | pwmCtl => cases hw; rw [loadReg, (hctl hne.symm).1]
  | pwmLoad => cases hw; rw [loadReg, hload hne.symm]
  | pwmCmp => cases hw; rw [loadReg, hcmp hne.symm]
  | uartFlags => cases hw; rw [loadReg, flagsWord, rxAvl, hhi, hrxq, (htx hdata).1]; rfl
  | uartData =>
    -- A read that leaves the space as it is takes no byte, so it is not one of UART.DATA.
    simp only [loadReg] at hw
    split at hw
    · rename_i hq
      simp only [Host.Outcome.next.injEq, Prod.mk.injEq] at hw
      have hlen := congrArg (fun g => g.rxq.length) hw.2
      simp [hq] at hlen
    · cases hw

end

/-- Settles O5, by the inversion of a masked write and what it leaves register by register. -/
theorem maskedWriteTouchesOnlyItsBits : Obligations.MaskedWriteTouchesOnlyItsBits := by
  intro s r m v t hen hpri hdata hicr h
  obtain ⟨-, g, hg, rfl⟩ := memWriteMasked_eq_next.mp h
  obtain ⟨-, -, -, -, -, hctl, -, -, htx, hhi, hdhi, hrxq⟩ := storeReg_frame hg
  refine ⟨fun w w' hw hw' j => ?_, fun r' w hne hw => loadReg_storeReg_of_ne hen hpri hdata hicr hg hne hw, hrxq,
    (htx hdata).2, (htx hdata).1, hhi, hdhi, fun hr => (hctl hr).2, ?_⟩
  · rw [loadReg_storeReg_self hen hpri hdata hicr hg hw hw', merge_getLsbD]
  · cases r with
    | uartData => exact absurd rfl hdata
    | _ => rfl

/-- Settles O6: ICR is PEND written with ones that clear. -/
theorem icrWriteOneToClear : Obligations.IcrWriteOneToClear := fun _ _ _ _ hc =>
  ⟨_, clearPending_getLsbD _ _ _, memWriteMasked_gpio_of_clockOn hc rfl⟩

/-- Settles O7. -/
theorem lineRegistersReadAfterWrite : Obligations.LineRegistersReadAfterWrite := fun _ l l' v hf =>
  ⟨lineRead_lineWrite hf l l' v, lineWrite_wf hf l v⟩

/-- Settles O8. -/
theorem lineRegistersCanonical : Obligations.LineRegistersCanonical := fun _ _ => lineFile_ext

theorem rxAvl_eq_true {g : RegSpace} : rxAvl g = true ↔ g.rxq ≠ [] := by
  simp [rxAvl]

/-- Settles O9, by the two flags of the word read. -/
theorem flagsReadShowsReadiness : Obligations.FlagsReadShowsReadiness := fun s =>
  ⟨flagsWord s.regs, memRead_uartFlags s, txRdyOf_flagsWord s.regs, by
    rw [← rxAvl_eq_true, ← rxAvlOf_flagsWord s.regs]; rfl⟩

/-- Settles O35, by the two cases of a write to PWM.CTL. -/
theorem generatorStartReloads : Obligations.GeneratorStartReloads := by
  intro s m v ctl
  rcases writePwmCtl_cases m v s.regs with ⟨⟨hoff, hon⟩, e⟩ | ⟨hkept, e⟩
  · refine ⟨fun _ _ => by rw [memWriteMasked_pwmCtl, e]; rfl, ?_⟩
    rintro (h | h)
    · exact absurd (h.symm.trans hoff) nofun
    · exact absurd (hon.symm.trans h) nofun
  · refine ⟨fun hoff hon => ?_, fun _ => by rw [memWriteMasked_pwmCtl, e]; rfl⟩
    rcases hkept with h | h
    · exact absurd (h.symm.trans hoff) nofun
    · exact absurd (hon.symm.trans h) nofun

end Sys2Proof.Machine

namespace Sys2Proof.Machine

/-! ### What a step of any command can do -/

/-- Everything a step of the command `i` can do: S0 without a transaction, one masked write the command may make (10 R54), the
read of PWM.LOAD into TMP, a poll of the flags, or the read of a byte with its response. -/
inductive CommandEffect (i : Instr) (s : State) : State → Prop where
  | silent {t : State} : StartEffect s t → CommandEffect i s t
  | write {t : State} {r : RegId} {m v : RegWord} : accessAllowed i s.board (.writing r m v true) →
      WriteEffect r m v s t → CommandEffect i s t
  | load (cmp : PwmWord) : i = .setDuty cmp → CommandEffect i s
      (((s.didRead .pwmLoad s.regs.pwmLoad s.regs).withTmp (pwmField s.regs.pwmLoad)).goto 2)
  | poll (k : StepNo) : CommandEffect i s ((s.didRead .uartFlags (flagsWord s.regs) s.regs).goto k)
  | take (b : Byte) (rest : List Byte) : i = .receiveByte → s.stepNo = 2 → s.regs.rxq = b :: rest → CommandEffect i s
      ((s.didRead .uartData (s.regs.dataHi ++ b) { s.regs with rxq := rest }).respond statusOk b)

theorem stepNo_eq_of_toNat {s : State} {k : StepNo} (h : s.stepNo.toNat = k.toNat) : s.stepNo = k := BitVec.eq_of_toNat_eq h

theorem CommandEffect.start {i : Instr} {s : State} (h : s.stepNo.toNat = 0) : CommandEffect i s (s.goto 1) :=
  .silent (.start (stepNo_eq_of_toNat h))

/-- Inversion for all commands at once: a step that answers a next state has one of these effects. -/
theorem exec_effect {i : Instr} {s t : State} (h : exec i s = .next t) : CommandEffect i s t := by
  cases i with
  | configurePin port pin dir res =>
    obtain h | ⟨p, j, r, ho, h⟩ := configurePin_next h
    · exact .silent h
    obtain ⟨hp, hj, -⟩ := configureOperands_eq_some.mp ho
    have hbank : ∀ {k m v}, (k = .pur ∨ k = .pdr) ∨ k = .dir ∨ k = .den → m = oneHot j.val →
        accessAllowed (.configurePin port pin dir res) s.board (.writing (.gpio p k) m v true) := by
      rintro k m v ((rfl | rfl) | rfl | rfl) rfl <;> exact ⟨p, j, hp, hj, .inr ⟨by simp, bitsWithin_self _⟩⟩
    obtain ⟨-, h⟩ | ⟨k, -, hk, h⟩ | ⟨k, -, hk, h⟩ | ⟨-, h⟩ | ⟨-, h⟩ := h
    · exact .write ⟨p, j, hp, hj, .inl ⟨rfl, bitsWithin_self _⟩⟩ h
    · exact .write (hbank (.inl (oppositeReg_cases hk)) rfl) h
    · exact .write (hbank (.inl (requestedReg_cases hk)) rfl) h
    · exact .write (hbank (by simp) rfl) h
    · exact .write (hbank (by simp) rfl) h
  | attachInterrupt port pin prio edge =>
    obtain h | ⟨p, j, ho, h⟩ := attachInterrupt_next h
    · exact .silent h
    obtain ⟨hp, hj, -⟩ := attachOperands_eq_some.mp ho
    obtain ⟨-, h⟩ | ⟨-, h⟩ | ⟨-, h⟩ | ⟨-, h⟩ | ⟨-, h⟩ | ⟨-, h⟩ := h <;>
      exact .write ⟨p, j, hp, hj, by simp [bitsWithin_self]⟩ h
  | actForward =>
    obtain ⟨h0, rfl⟩ | ⟨-, rfl⟩ | ⟨-, rfl⟩ := driveStep_next h
    · exact .start h0
    · exact .write ⟨rfl, bitsWithin_drive (by decide)⟩ (.goes _ 2 rfl rfl)
    · exact .write ⟨rfl, bitsWithin_drive (by decide)⟩ (.ends _ rfl rfl)
  | actReverse =>
    obtain ⟨h0, rfl⟩ | ⟨-, rfl⟩ | ⟨-, rfl⟩ := driveStep_next h
    · exact .start h0
    · exact .write ⟨rfl, bitsWithin_drive (by decide)⟩ (.goes _ 2 rfl rfl)
    · exact .write ⟨rfl, bitsWithin_drive (by decide)⟩ (.ends _ rfl rfl)
  | actStop =>
    obtain ⟨h0, rfl⟩ | ⟨-, rfl⟩ := actStop_next h
    · exact .start h0
    · exact .write ⟨rfl, bitsWithin_self _⟩ (.ends _ rfl rfl)
  | initPwm load cmp =>
    obtain ⟨h0, rfl⟩ | ⟨-, rfl⟩ | ⟨-, rfl⟩ | ⟨-, rfl⟩ | ⟨-, rfl⟩ := initPwm_next h
    · exact .start h0
    · exact .write (.inl ⟨rfl, bitsWithin_self _⟩) (.goes _ 2 rfl rfl)
    · exact .write (.inr (.inl ⟨rfl, bitsWithin_self _⟩)) (.goes _ 3 rfl rfl)
    · exact .write (.inr (.inr ⟨rfl, bitsWithin_self _⟩)) (.goes _ 4 rfl rfl)
    · exact .write (.inl ⟨rfl, bitsWithin_self _⟩) (.ends _ rfl rfl)
  | setDuty cmp =>
    obtain ⟨h0, rfl⟩ | ⟨-, rfl⟩ | ⟨-, rfl⟩ := setDuty_next h
    · exact .start h0
    · exact .load cmp rfl
    · exact .write ⟨rfl, bitsWithin_self _⟩ (.ends _ rfl rfl)
  | transmitByte byte =>
    obtain ⟨h0, rfl⟩ | ⟨-, rfl⟩ | ⟨-, hr, rfl⟩ := transmitByte_next h
    · exact .start h0
    · exact .poll _
    · exact .write ⟨rfl, bitsWithin_self _⟩ (.ends _ rfl (by simp [storeReg, hr]))
  | receiveByte =>
    obtain ⟨h0, rfl⟩ | ⟨-, rfl⟩ | ⟨b, rest, h2, hq, rfl⟩ := receiveByte_next h
    · exact .start h0
    · exact .poll _
    · exact .take b rest rfl (stepNo_eq_of_toNat h2) hq

/-- What a step of a command does to the register space: nothing, one masked write the command may make, or one byte less in
RXQ. -/
theorem CommandEffect.regs {i : Instr} {s t : State} (h : CommandEffect i s t) :
    t.regs = s.regs ∨
    (∃ r m v, accessAllowed i s.board (.writing r m v true) ∧
      storeReg (Config.txStaysReady s.draws) r m v s.regs = .next t.regs) ∨
    (i = .receiveByte ∧ ∃ q, t.regs = { s.regs with rxq := q }) := by
  cases h with
  | silent h =>
    obtain ⟨-, -, -, -, -, -, -, hregs⟩ := h.frame
    exact .inl hregs
  | write ha h =>
    obtain ⟨-, -, -, -, -, -, -, -, hg⟩ := h.frame
    exact .inr (.inl ⟨_, _, _, ha, hg⟩)
  | load => exact .inl rfl
  | poll => exact .inl rfl
  | take b rest hi => exact .inr (.inr ⟨hi, rest, rfl⟩)

/-! ### The registers each unit writes -/

/-- The units of WCS-RM that write the register space; the actuator's two halves apart (spec 40 to 43). -/
inductive WritingUnit where
  | pins | interrupts | drive | pwm | serial
  deriving DecidableEq

/-- The unit a command belongs to. -/
def commandUnit : Instr → WritingUnit
  | .configurePin _ _ _ _ => .pins
  | .attachInterrupt _ _ _ _ => .interrupts
  | .actForward => .drive
  | .actReverse => .drive
  | .actStop => .drive
  | .initPwm _ _ => .pwm
  | .setDuty _ => .pwm
  | .transmitByte _ => .serial
  | .receiveByte => .serial

/-- The unit whose commands may write a register (10 R54); none may write IEV, PEND and UART.FLAGS. -/
def registerUnit : RegId → Option WritingUnit
  | .sysClkgate => some .pins
  | .gpio _ .dir => some .pins
  | .gpio _ .pur => some .pins
  | .gpio _ .pdr => some .pins
  | .gpio _ .den => some .pins
  | .gpio _ .iev => none
  | .gpio _ .pend => none
  | .gpio _ _ => some .interrupts
  | .icEn _ => some .interrupts
  | .icPri _ => some .interrupts
  | .actDrv => some .drive
  | .pwmCtl => some .pwm
  | .pwmLoad => some .pwm
  | .pwmCmp => some .pwm
  | .uartFlags => none
  | .uartData => some .serial

section
variable {i : Instr} {bd : Board} {r : RegId} {m v : RegWord} {a : Bool}

/-- A command writes only registers of its own unit. -/
theorem registerUnit_of_accessAllowed (h : accessAllowed i bd (.writing r m v a)) :
    registerUnit r = some (commandUnit i) := by
  cases i with
  | configurePin =>
    obtain ⟨p, k, -, -, ⟨rfl, -⟩ | ⟨rfl | rfl | rfl | rfl, -⟩⟩ := h <;> rfl
  | attachInterrupt =>
    obtain ⟨p, k, -, -, ⟨rfl | rfl | rfl | rfl, -⟩ | ⟨rfl, -⟩ | ⟨rfl, -⟩⟩ := h <;> rfl
  | initPwm => obtain ⟨rfl, -⟩ | ⟨rfl, -⟩ | ⟨rfl, -⟩ := h <;> rfl
  | receiveByte => exact h.elim
  | _ => obtain ⟨rfl, -⟩ := h; rfl

/-- A command does not write a register of another unit. -/
theorem ne_of_registerUnit {r' : RegId} (h : accessAllowed i bd (.writing r m v a))
    (hu : registerUnit r' ≠ some (commandUnit i)) : r ≠ r' := by
  rintro rfl
  exact hu (registerUnit_of_accessAllowed h)

/-- Of the PWM registers SET_DUTY writes PWM.CMP alone. -/
theorem eq_pwmCmp_or_initPwm (h : accessAllowed i bd (.writing r m v a)) (hu : registerUnit r = some .pwm) :
    r = .pwmCmp ∨ ∃ load cmp, i = .initPwm load cmp := by
  have hi : commandUnit i = .pwm := Option.some.inj ((registerUnit_of_accessAllowed h).symm.trans hu)
  cases i with
  | initPwm load cmp => exact .inr ⟨load, cmp, rfl⟩
  | setDuty cmp => exact .inl h.1
  | _ => cases hi

/-- Only TRANSMIT_BYTE writes UART.DATA. -/
theorem transmitByte_of_writes_data (h : accessAllowed i bd (.writing .uartData m v a)) : ∃ b, i = .transmitByte b := by
  have hi : commandUnit i = .serial := Option.some.inj (registerUnit_of_accessAllowed h).symm
  cases i with
  | transmitByte b => exact ⟨b, rfl⟩
  | receiveByte => exact h.elim
  | _ => cases hi

end

theorem drawsAfter_of_ne {r : RegId} (h : r ≠ .uartData) (n : Nat) : drawsAfter r n = n := by
  cases r with
  | uartData => exact absurd rfl h
  | _ => rfl

theorem unit_ne_pins {i : Instr} (hi : ∀ port pin dir res, i ≠ .configurePin port pin dir res) :
    commandUnit i ≠ .pins := by
  cases i with
  | configurePin => exact absurd rfl (hi _ _ _ _)
  | _ => exact nofun

theorem unit_ne_interrupts {i : Instr} (hi : ∀ port pin prio edge, i ≠ .attachInterrupt port pin prio edge) :
    commandUnit i ≠ .interrupts := by
  cases i with
  | attachInterrupt => exact absurd rfl (hi _ _ _ _)
  | _ => exact nofun

theorem unit_ne_drive {i : Instr} (hf : i ≠ .actForward) (hr : i ≠ .actReverse) (hs : i ≠ .actStop) :
    commandUnit i ≠ .drive := by
  cases i with
  | actForward => exact absurd rfl hf
  | actReverse => exact absurd rfl hr
  | actStop => exact absurd rfl hs
  | _ => exact nofun

theorem unit_ne_pwm {i : Instr} (hi : ∀ load cmp, i ≠ .initPwm load cmp) (hd : ∀ cmp, i ≠ .setDuty cmp) :
    commandUnit i ≠ .pwm := by
  cases i with
  | initPwm => exact absurd rfl (hi _ _)
  | setDuty => exact absurd rfl (hd _)
  | _ => exact nofun

/-! ### The frame of every command -/

/-- Only SET_DUTY writes TMP (10 R25). -/
theorem exec_keeps_tmp {i : Instr} {s t : State} (hi : ∀ cmp, i ≠ .setDuty cmp) (h : exec i s = .next t) :
    t.tmp = s.tmp := by
  cases exec_effect h with
  | silent h =>
    obtain ⟨-, htmp, -⟩ := h.frame
    exact htmp
  | write _ h =>
    obtain ⟨-, htmp, -⟩ := h.frame
    exact htmp
  | load cmp e => exact absurd e (hi cmp)
  | poll => rfl
  | take => rfl

/-- Only TRANSMIT_BYTE draws PLAT's choice about TXRDY (43 R187). -/
theorem exec_keeps_draws {i : Instr} {s t : State} (hi : ∀ b, i ≠ .transmitByte b) (h : exec i s = .next t) :
    t.draws = s.draws := by
  cases exec_effect h with
  | silent h =>
    obtain ⟨-, -, -, -, -, hdraws, -⟩ := h.frame
    exact hdraws
  | @write t r m v ha h =>
    obtain ⟨-, -, -, -, -, hdraws, -⟩ := h.frame
    rw [hdraws, drawsAfter_of_ne]
    rintro rfl
    obtain ⟨b, e⟩ := transmitByte_of_writes_data ha
    exact hi b e
  | load => rfl
  | poll => rfl
  | take => rfl

/-- A bank register of a unit the command does not belong to keeps its word. -/
theorem bankRead_of_command_write {i : Instr} {bd : Board} {stays : Bool} {r : RegId} {m v : RegWord} {g g' : RegSpace}
    (ha : accessAllowed i bd (.writing r m v true)) (h : storeReg stays r m v g = .next g') {q : Port} {k : BankReg}
    (hu : registerUnit (.gpio q k) ≠ some (commandUnit i)) (hpend : k = .pend → commandUnit i ≠ .interrupts) :
    bankRead (g'.banks.get q) k = bankRead (g.banks.get q) k :=
  bankRead_storeReg_of_ne h (ne_of_registerUnit ha hu)
    fun e => ne_of_registerUnit ha fun e' => hpend e (Option.some.inj e').symm

/-- Settles O47: a step with one masked write changes only registers of the command's unit; the others change no register but
RXQ. -/
theorem commandFrames : Obligations.CommandFrames := by
  intro i s t h
  obtain ⟨hcmd, hport, hboard, hmoves⟩ := exec_keeps h
  have htmp : (∀ cmp, i ≠ .setDuty cmp) → t.tmp = s.tmp := fun hi => exec_keeps_tmp hi h
  have hdraws : (∀ b, i ≠ .transmitByte b) → t.draws = s.draws := fun hi => exec_keeps_draws hi h
  refine ⟨hcmd, hport, hboard, hmoves, ?_⟩
  obtain e | ⟨r, m, v, ha, hg⟩ | ⟨rfl, q, e⟩ := (exec_effect h).regs
  · rw [e]
    exact ⟨rfl, rfl, fun _ => rfl, fun _ => ⟨rfl, fun _ => ⟨rfl, rfl, rfl, rfl⟩⟩,
      fun _ => ⟨rfl, rfl, fun _ => ⟨rfl, rfl, rfl, rfl⟩⟩, fun _ _ _ => rfl, fun _ => ⟨rfl, rfl, rfl, rfl, fun _ => rfl⟩,
      htmp, fun hi => ⟨rfl, rfl, hdraws hi⟩, fun _ => rfl⟩
  · obtain ⟨hclk, -, hen, hpri, hact, hctl, hload, hcmp, htx, hhi, hdhi, hrxq⟩ := storeReg_frame hg
    -- A register of another unit is not the one written.
    have hne : ∀ {r'}, registerUnit r' ≠ some (commandUnit i) → r ≠ r' := ne_of_registerUnit ha
    have hbank : ∀ q k, registerUnit (.gpio q k) ≠ some (commandUnit i) → (k = .pend → commandUnit i ≠ .interrupts) →
        bankRead (t.regs.banks.get q) k = bankRead (s.regs.banks.get q) k := fun q k => bankRead_of_command_write ha hg
    refine ⟨hhi, hdhi, fun q => Option.some.inj (hbank q .iev nofun nofun), fun hi => ?_, fun hi => ?_, fun hf hr hs => ?_,
      fun hi => ?_, htmp, fun hi => ?_, fun _ => hrxq⟩
    · have hu : some .pins ≠ some (commandUnit i) := fun e => unit_ne_pins hi (Option.some.inj e).symm
      have hk : ∀ q k, registerUnit (.gpio q k) = some .pins → k ≠ .pend →
          bankRead (t.regs.banks.get q) k = bankRead (s.regs.banks.get q) k :=
        fun q k e hp => hbank q k (e ▸ hu) fun e' => absurd e' hp
      exact ⟨hclk (hne hu), fun q => ⟨Option.some.inj (hk q .dir rfl nofun), Option.some.inj (hk q .pur rfl nofun),
        Option.some.inj (hk q .pdr rfl nofun), Option.some.inj (hk q .den rfl nofun)⟩⟩
    · have hi := unit_ne_interrupts hi
      have hu : some .interrupts ≠ some (commandUnit i) := fun e => hi (Option.some.inj e).symm
      exact ⟨hen fun l => hne hu, hpri fun l => hne hu, fun q => ⟨Option.some.inj (hbank q .is hu nofun),
        Option.some.inj (hbank q .ibe hu nofun), Option.some.inj (hbank q .pend nofun fun _ => hi),
        Option.some.inj (hbank q .im hu nofun)⟩⟩
    · exact hact (hne fun e => unit_ne_drive hf hr hs (Option.some.inj e).symm)
    · have hpwm : ∀ {r'}, registerUnit r' = some .pwm → r' ≠ .pwmCmp → r ≠ r' := by
        rintro r' hu hc rfl
        obtain e | ⟨load, cmp, e⟩ := eq_pwmCmp_or_initPwm ha hu
        · exact hc e
        · exact hi load cmp e
      obtain ⟨hctl, hact, hcount⟩ := hctl (hpwm rfl nofun)
      exact ⟨hctl, hload (hpwm rfl nofun), hact, hcount, fun hd => hcmp (hne fun e => unit_ne_pwm hi hd (Option.some.inj e).symm)⟩
    · have hdata : r ≠ .uartData := by
        rintro rfl
        obtain ⟨b, e⟩ := transmitByte_of_writes_data ha
        exact hi b e
      exact ⟨(htx hdata).1, (htx hdata).2, hdraws hi⟩
  · rw [e]
    exact ⟨rfl, rfl, fun _ => rfl, fun _ => ⟨rfl, fun _ => ⟨rfl, rfl, rfl, rfl⟩⟩,
      fun _ => ⟨rfl, rfl, fun _ => ⟨rfl, rfl, rfl, rfl⟩⟩, fun _ _ _ => rfl, fun _ => ⟨rfl, rfl, rfl, rfl, fun _ => rfl⟩,
      htmp, fun hi => ⟨rfl, rfl, hdraws hi⟩, fun hi => absurd rfl hi⟩

end Sys2Proof.Machine

namespace Sys2Proof.Machine

/-! ### One bit after a masked write -/

theorem WriteEffect.store {r : RegId} {m v : RegWord} {s t : State} (h : WriteEffect r m v s t) :
    storeReg (Config.txStaysReady s.draws) r m v s.regs = .next t.regs := by
  obtain ⟨-, -, -, -, -, -, -, -, hg⟩ := h.frame
  exact hg

/-- A bit outside the mask keeps its value, in every register of every bank (20 R64). -/
theorem bank_bit_storeReg {stays : Bool} {r : RegId} {m v : RegWord} {g g' : RegSpace} {q : Port} {n : BankReg} {j : Nat}
    {w w' : RegWord} (h : storeReg stays r m v g = .next g') (hm : ∀ k, r = .gpio q k → m.getLsbD j = false)
    (hw : bankRead (g.banks.get q) n = some w) (hw' : bankRead (g'.banks.get q) n = some w') :
    w'.getLsbD j = w.getLsbD j := by
  by_cases hr : ∃ k, r = .gpio q k
  · obtain ⟨k, rfl⟩ := hr
    have hbit := hm k rfl
    obtain ⟨b, hb, rfl⟩ := storeReg_gpio h
    rw [setBank_banks, PortTable.get_set_self] at hw'
    by_cases hicr : k = .icr ∧ n = .pend
    · obtain ⟨rfl, rfl⟩ := hicr
      cases hb; cases hw; cases hw'
      rw [clearPending_getLsbD, hbit, Bool.false_and, Bool.not_false, Bool.and_true]
    · by_cases hk : k = n
      · subst hk
        have hne : k ≠ .icr := by rintro rfl; cases hw
        rw [bankRead_bankWrite_self hne hb hw] at hw'
        cases hw'
        rw [merge_getLsbD, hbit, if_neg Bool.false_ne_true]
      · rw [bankRead_bankWrite_of_ne hb hk fun e e' => hicr ⟨e', e⟩, hw] at hw'
        cases hw'; rfl
  · rw [bankRead_storeReg_of_ne h (fun e => hr ⟨n, e⟩) fun _ e => hr ⟨_, e⟩, hw] at hw'
    cases hw'; rfl

theorem clkgate_bit_storeReg {stays : Bool} {r : RegId} {m v : RegWord} {g g' : RegSpace} {j : Nat}
    (h : storeReg stays r m v g = .next g') (hm : r = .sysClkgate → m.getLsbD j = false) :
    g'.clkgate.getLsbD j = g.clkgate.getLsbD j := by
  cases r with
  | sysClkgate => cases h; rw [merge_getLsbD, hm rfl, if_neg Bool.false_ne_true]
  | _ =>
    obtain ⟨hclk, -⟩ := storeReg_frame h
    rw [hclk nofun]

/-- A mask within another has no bit where that one has none. -/
theorem getLsbD_of_bitsWithin {m allowed : RegWord} (h : bitsWithin m allowed) {j : Nat} (hj : allowed.getLsbD j = false) :
    m.getLsbD j = false := by
  have hz := congrArg (BitVec.getLsbD · j) h
  by_cases hlt : j < 32
  · simpa [hj, hlt, -BitVec.getLsbD_eq_getElem] using hz
  · exact BitVec.getLsbD_of_ge m j (Nat.le_of_not_lt hlt)

theorem getLsbD_of_bitsWithin_oneHot {m : RegWord} {i j : Nat} (h : bitsWithin m (oneHot i)) (hj : j ≠ i) :
    m.getLsbD j = false :=
  getLsbD_of_bitsWithin h (by rw [oneHot_getLsbD, decide_eq_false hj, Bool.false_and])

/-! ### The pin commands, bit by bit -/

section
variable {port : BitVec 4} {pin : BitVec 8} {p : Port} {k : Fin 8} {bd : Board} {r : RegId} {m v : RegWord} {a : Bool}

/-- What a pin command may write: the bit of its pin in its port's bank, its port's clock bit, and its port's line. -/
theorem pin_command_writes {i : Instr} (hp : portSel port = some p) (hk : pinSel pin = some k)
    (hi : (∃ dir res, i = .configurePin port pin dir res) ∨ ∃ prio edge, i = .attachInterrupt port pin prio edge)
    (h : accessAllowed i bd (.writing r m v a)) :
    (r = .sysClkgate ∧ bitsWithin m (oneHot (bd.clkBit p))) ∨ ((∃ n, r = .gpio p n) ∧ bitsWithin m (oneHot k.val)) ∨
      r = .icEn (bd.irqLine p) ∨ r = .icPri (bd.irqLine p) := by
  obtain ⟨dir, res, rfl⟩ | ⟨prio, edge, rfl⟩ := hi
  · obtain ⟨p', k', hp', hk', h⟩ := h
    cases hp.symm.trans hp'
    cases hk.symm.trans hk'
    obtain h | ⟨hr, hm⟩ := h
    · exact .inl h
    · exact .inr (.inl ⟨by obtain rfl | rfl | rfl | rfl := hr <;> exact ⟨_, rfl⟩, hm⟩)
  · obtain ⟨p', k', hp', hk', h⟩ := h
    cases hp.symm.trans hp'
    cases hk.symm.trans hk'
    obtain ⟨hr, hm⟩ | ⟨hr, -⟩ | ⟨hr, -⟩ := h
    · exact .inr (.inl ⟨by obtain rfl | rfl | rfl | rfl := hr <;> exact ⟨_, rfl⟩, hm⟩)
    · exact .inr (.inr (.inr hr))
    · exact .inr (.inr (.inl hr))

end

/-- Settles O48: each step writes within the bit of the pin, the port's clock bit, or the port's line. -/
theorem pinCommandsTouchOnePin : Obligations.PinCommandsTouchOnePin := by
  intro i port pin p k s t hp hk hen hpri hi h
  obtain e | ⟨r, m, v, ha, hg⟩ | ⟨rfl, -⟩ := (exec_effect h).regs
  · rw [e]
    exact ⟨fun q n w w' j hw hw' _ => by cases hw.symm.trans hw'; rfl, fun _ _ => rfl, fun _ _ => ⟨rfl, rfl⟩⟩
  · have hr := pin_command_writes hp hk hi ha
    refine ⟨fun q n w w' j hw hw' hne => bank_bit_storeReg hg ?_ hw hw', fun j hj => clkgate_bit_storeReg hg ?_,
      fun l hl => ⟨lineRead_icEn_storeReg hen hg ?_, lineRead_icPri_storeReg hpri hg ?_⟩⟩
    · rintro n rfl
      obtain ⟨e, -⟩ | ⟨⟨n', e⟩, hm⟩ | e | e := hr <;> cases e
      exact getLsbD_of_bitsWithin_oneHot hm (hne.resolve_left (absurd rfl))
    · rintro rfl
      obtain ⟨-, hm⟩ | ⟨⟨n', e⟩, -⟩ | e | e := hr
      · exact getLsbD_of_bitsWithin_oneHot hm hj
      all_goals cases e
    · rintro rfl
      obtain ⟨e, -⟩ | ⟨⟨n', e⟩, -⟩ | e | e := hr <;> cases e
      exact hl rfl
    · rintro rfl
      obtain ⟨e, -⟩ | ⟨⟨n', e⟩, -⟩ | e | e := hr <;> cases e
      exact hl rfl
  · obtain ⟨dir, res, e⟩ | ⟨prio, edge, e⟩ := hi <;> cases e

/-! ### Clocks, mask bits, lines and pending flags -/

/-- Writing ones clears no bit. -/
theorem merge_ones_getLsbD_of_set {w m : RegWord} {j : Nat} (h : w.getLsbD j = true) :
    (merge w m m).getLsbD j = true := by
  rw [merge_ones, BitVec.getLsbD_or, h, Bool.true_or]

/-- A command that is one of CONFIGURE_PIN's words, or none of them. -/
theorem configurePin_or_not (i : Instr) :
    (∃ port pin dir res, i = .configurePin port pin dir res) ∨ ∀ port pin dir res, i ≠ .configurePin port pin dir res := by
  cases i with
  | configurePin port pin dir res => exact .inl ⟨port, pin, dir, res, rfl⟩
  | _ => exact .inr nofun

theorem attachInterrupt_or_not (i : Instr) :
    (∃ port pin prio edge, i = .attachInterrupt port pin prio edge) ∨
      ∀ port pin prio edge, i ≠ .attachInterrupt port pin prio edge := by
  cases i with
  | attachInterrupt port pin prio edge => exact .inl ⟨port, pin, prio, edge, rfl⟩
  | _ => exact .inr nofun

/-- The one step that writes SYS.CLKGATE sets a bit (40 R111). -/
theorem exec_keeps_clock_bit {i : Instr} {s t : State} (h : exec i s = .next t) {j : Nat}
    (hj : s.regs.clkgate.getLsbD j = true) : t.regs.clkgate.getLsbD j = true := by
  obtain ⟨port, pin, dir, res, rfl⟩ | hi := configurePin_or_not i
  · obtain h | ⟨p, k, r, -, ⟨-, h⟩ | ⟨n, -, -, h⟩ | ⟨n, -, -, h⟩ | ⟨-, h⟩ | ⟨-, h⟩⟩ := configurePin_next h
    · obtain ⟨-, -, -, -, -, -, -, e⟩ := h.frame
      rw [e]; exact hj
    · rw [← Host.Outcome.next.inj h.store]; exact merge_ones_getLsbD_of_set hj
    all_goals exact (clkgate_bit_storeReg h.store nofun).trans hj
  · obtain ⟨-, -, -, -, -, -, -, hpin, -⟩ := commandFrames i s t h
    rw [(hpin hi).1]; exact hj

/-- The one step that writes a mask register sets a bit (41 R130). -/
theorem exec_keeps_mask_bit {i : Instr} {s t : State} (h : exec i s = .next t) {q : Port} {j : Nat}
    (hj : (s.regs.banks.get q).im.getLsbD j = true) : (t.regs.banks.get q).im.getLsbD j = true := by
  obtain ⟨port, pin, prio, edge, rfl⟩ | hi := attachInterrupt_or_not i
  · have hkeep : ∀ {r m v}, WriteEffect r m v s t → r ≠ .gpio q .im → (t.regs.banks.get q).im.getLsbD j = true := by
      intro r m v h hr
      rw [Option.some.inj (bankRead_storeReg_of_ne h.store hr nofun), hj]
    obtain h | ⟨p, k, -, ⟨-, h⟩ | ⟨-, h⟩ | ⟨-, h⟩ | ⟨-, h⟩ | ⟨-, h⟩ | ⟨-, h⟩⟩ := attachInterrupt_next h
    · obtain ⟨-, -, -, -, -, -, -, e⟩ := h.frame
      rw [e]; exact hj
    · exact hkeep h nofun
    · exact hkeep h nofun
    · exact hkeep h nofun
    · obtain ⟨-, b, hb, e⟩ := h.gpio
      cases hb
      rw [e, setBank_banks, PortTable.get_set]
      split
      · subst q; exact merge_ones_getLsbD_of_set hj
      · exact hj
    · exact hkeep h nofun
    · exact hkeep h nofun
  · obtain ⟨-, -, -, -, -, -, -, -, hattach, -⟩ := commandFrames i s t h
    obtain ⟨-, -, hbank⟩ := hattach hi
    obtain ⟨-, -, -, him⟩ := hbank q
    rw [him]; exact hj

/-- The one step that writes a line's enable sets it (41 R132). -/
theorem exec_keeps_line_bit {i : Instr} {s t : State} (hwf : s.regs.icEn.wf) (h : exec i s = .next t) {l : Nat}
    (hl : (lineRead s.regs.icEn l).getLsbD 0 = true) : (lineRead t.regs.icEn l).getLsbD 0 = true := by
  obtain ⟨port, pin, prio, edge, rfl⟩ | hi := attachInterrupt_or_not i
  · obtain h | ⟨p, k, -, ⟨-, h⟩ | ⟨-, h⟩ | ⟨-, h⟩ | ⟨-, h⟩ | ⟨-, h⟩ | ⟨-, h⟩⟩ := attachInterrupt_next h
    · obtain ⟨-, -, -, -, -, -, -, e⟩ := h.frame
      rw [e]; exact hl
    · rw [lineRead_icEn_storeReg hwf h.store nofun]; exact hl
    · rw [lineRead_icEn_storeReg hwf h.store nofun]; exact hl
    · rw [lineRead_icEn_storeReg hwf h.store nofun]; exact hl
    · rw [lineRead_icEn_storeReg hwf h.store nofun]; exact hl
    · rw [lineRead_icEn_storeReg hwf h.store nofun]; exact hl
    · rw [← Host.Outcome.next.inj h.store]
      simp only [lineRead_lineWrite hwf]
      split
      · subst l; exact merge_ones_getLsbD_of_set hl
      · exact hl
  · obtain ⟨-, -, -, -, -, -, -, -, hattach, -⟩ := commandFrames i s t h
    obtain ⟨hen, -⟩ := hattach hi
    rw [hen]; exact hl

/-- Settles O49. -/
theorem noCommandDisarms : Obligations.NoCommandDisarms := by
  intro i s t hwf h
  obtain ⟨-, -, hboard, -⟩ := exec_keeps h
  refine ⟨fun p hc => ?_, fun p k hk => exec_keeps_mask_bit h hk, fun l hl => exec_keeps_line_bit hwf h hl⟩
  rw [clockOn, hboard]
  exact exec_keeps_clock_bit h hc

/-- A pending flag falls by a command only in S3 of ATTACH_INTERRUPT for its pin (41 R129). -/
theorem exec_clears_pending {i : Instr} {s t : State} (h : exec i s = .next t) {q : Port} {j : Fin 8}
    (hj : (s.regs.banks.get q).pend.getLsbD j.val = true) (hj' : (t.regs.banks.get q).pend.getLsbD j.val = false) :
    ∃ port pin prio edge, i = .attachInterrupt port pin prio edge ∧ s.stepNo = 3 ∧
      attachOperands port pin prio = some (q, j) := by
  -- Where PEND is not written the flag would stand.
  have hkept : (t.regs.banks.get q).pend ≠ (s.regs.banks.get q).pend := fun e => by
    rw [e, hj] at hj'; cases hj'
  obtain ⟨port, pin, prio, edge, rfl⟩ | hi := attachInterrupt_or_not i
  · have hother : ∀ {r m v}, WriteEffect r m v s t → r ≠ .gpio q .pend → r ≠ .gpio q .icr → False :=
      fun h hr hicr => hkept (Option.some.inj (bankRead_storeReg_of_ne h.store hr fun _ => hicr))
    obtain h | ⟨p, k, ho, ⟨-, h⟩ | ⟨-, h⟩ | ⟨h3, h⟩ | ⟨-, h⟩ | ⟨-, h⟩ | ⟨-, h⟩⟩ := attachInterrupt_next h
    · obtain ⟨-, -, -, -, -, -, -, e⟩ := h.frame
      exact absurd (by rw [e]) hkept
    · exact (hother h nofun nofun).elim
    · exact (hother h nofun nofun).elim
    · by_cases hpin : q ≠ p ∨ j.val ≠ k.val
      · have hsame : (t.regs.banks.get q).pend.getLsbD j.val = (s.regs.banks.get q).pend.getLsbD j.val :=
          bank_bit_storeReg (n := .pend) h.store (fun n e => ?_) rfl rfl
        · rw [hsame, hj] at hj'; cases hj'
        · cases e
          exact getLsbD_of_bitsWithin_oneHot (bitsWithin_self _) (hpin.resolve_left (absurd rfl))
      · obtain ⟨hq, hk⟩ := not_or.mp hpin
        obtain rfl := of_not_not hq
        obtain rfl := Fin.ext (of_not_not hk)
        exact ⟨port, pin, prio, edge, rfl, stepNo_eq_of_toNat h3, ho⟩
    · exact (hother h nofun nofun).elim
    · exact (hother h nofun nofun).elim
    · exact (hother h nofun nofun).elim
  · obtain ⟨-, -, -, -, -, -, -, -, hattach, -⟩ := commandFrames i s t h
    obtain ⟨-, -, hbank⟩ := hattach hi
    obtain ⟨-, -, hpend, -⟩ := hbank q
    exact absurd hpend hkept

/-- A step with SEQ to move is SEQ's move, with nothing shown at the ports before it. -/
theorem step_of_seq {s : State} (h : nextMove s = .seq) : step s = seqMove s.openStep := by rw [step, h]; rfl

/-- Settles O50. -/
theorem pendingFlagsSetAndCleared : Obligations.PendingFlagsSetAndCleared := by
  refine ⟨fun s p i h => ⟨_, fun j hj => setPending_getLsbD _ i.val j hj, ?_⟩, fun s t p i h ht hp hp' => ?_⟩
  · rw [step, h, openStep_of_other (h ▸ nofun)]; rfl
  · rw [step_of_seq h] at ht
    obtain ⟨hb, c, hc, hx⟩ | ⟨-, -, -, rfl⟩ | ⟨-, w, -, rfl⟩ | ⟨-, -, rfl⟩ := seqMove_next ht
    · obtain ⟨port, pin, prio, edge, rfl, h3, ho⟩ := exec_clears_pending hx hp hp'
      exact ⟨port, pin, prio, edge, hb, h3, hc, ho⟩
    all_goals exact absurd (hp.symm.trans hp') nofun

end Sys2Proof.Machine

namespace Sys2Proof.Machine

/-! ### One pin's bit after a write of it -/

theorem pinBit_merge_set (w : RegWord) (i : Fin 8) : pinBit (merge w (oneHot i.val) (oneHot i.val)) i = true := by
  rw [pinBit, merge_set_getLsbD _ _ _ (by omega), if_pos rfl]

theorem pinBit_merge_clear (w : RegWord) (i : Fin 8) : pinBit (merge w (oneHot i.val) 0) i = false := by
  rw [pinBit, merge_clear_getLsbD _ _ _ (by omega), if_pos rfl]

theorem pinBit_merge_put (w : RegWord) (i : Fin 8) (v : Bool) : pinBit (merge w (oneHot i.val) (bitAt v i.val)) i = v := by
  rw [pinBit, merge_put_getLsbD _ _ _ _ (by omega), if_pos rfl]

/-! ### The resistors -/

section
variable {b b' : Bank} {i : Fin 8} {r : Resistor} {k : BankReg}

/-- S2 turns the opposite resistor off (40 R112). -/
theorem oppositeOff_of_clear (hk : oppositeReg r = some k) (h : bankWrite b k (oneHot i.val) 0 = some b') :
    oppositeOff b' i r := by
  cases r <;> cases hk <;> cases h <;> exact pinBit_merge_clear _ i

/-- S3 turns the requested resistor on (40 R112). -/
theorem requestedOn_of_set (hk : requestedReg r = some k) (h : bankWrite b k (oneHot i.val) (oneHot i.val) = some b') :
    requestedOn b' i r := by
  cases r <;> cases hk <;> cases h <;> exact pinBit_merge_set _ i

/-- S3 leaves the opposite resistor. -/
theorem oppositeOff_kept_by_set (hk : requestedReg r = some k)
    (h : bankWrite b k (oneHot i.val) (oneHot i.val) = some b') (hoff : oppositeOff b i r) : oppositeOff b' i r := by
  cases r <;> cases hk <;> cases h <;> exact hoff

theorem not_both_of_oppositeOff (hr : r ≠ .none) (hoff : oppositeOff b i r) :
    ¬ (b.pur.getLsbD i.val = true ∧ b.pdr.getLsbD i.val = true) := by
  rintro ⟨hpur, hpdr⟩
  cases r with
  | none => exact hr rfl
  | pullUp => exact absurd (hpdr.symm.trans hoff) nofun
  | pullDown => exact absurd (hpur.symm.trans hoff) nofun

theorem ne_none_of_oppositeReg (hk : oppositeReg r = some k) : r ≠ .none := by rintro rfl; cases hk

theorem ne_none_of_requestedReg (hk : requestedReg r = some k) : r ≠ .none := by rintro rfl; cases hk

end

/-- Both resistors of a pin are on. -/
def bothResistors (g : RegSpace) (q : Port) (j : Fin 8) : Prop :=
  (g.banks.get q).pur.getLsbD j.val = true ∧ (g.banks.get q).pdr.getLsbD j.val = true

/-- A masked write to another register, or of another pin's bit, leaves both resistor bits of a pin. -/
theorem bothResistors_storeReg {stays : Bool} {r : RegId} {m v : RegWord} {g g' : RegSpace} {q : Port} {j : Fin 8}
    (h : storeReg stays r m v g = .next g')
    (hr : (r ≠ .gpio q .pur ∧ r ≠ .gpio q .pdr) ∨ ∀ k, r = .gpio q k → m.getLsbD j.val = false) :
    bothResistors g' q j ↔ bothResistors g q j := by
  obtain ⟨hpur, hpdr⟩ | hm := hr
  · have hpur := Option.some.inj (bankRead_storeReg_of_ne h hpur nofun)
    have hpdr := Option.some.inj (bankRead_storeReg_of_ne h hpdr nofun)
    rw [bothResistors, hpur, hpdr, bothResistors]
  · have hpur := bank_bit_storeReg (n := .pur) h hm rfl rfl
    have hpdr := bank_bit_storeReg (n := .pdr) h hm rfl rfl
    rw [bothResistors, hpur, hpdr, bothResistors]

/-- A resistor step of CONFIGURE_PIN after which the pin's opposite resistor is off (40 R112). -/
theorem resistor_step_not_both {p q : Port} {i j : Fin 8} {r : Resistor} {k : BankReg} {v : RegWord} {s t : State}
    (h : WriteEffect (.gpio p k) (oneHot i.val) v s t) (hr : r ≠ .none)
    (hoff : ∀ b, bankWrite (s.regs.banks.get p) k (oneHot i.val) v = some b → oppositeOff b i r)
    (hn : ¬ bothResistors s.regs q j) : ¬ bothResistors t.regs q j := by
  by_cases hpin : q = p ∧ j = i
  · obtain ⟨rfl, rfl⟩ := hpin
    obtain ⟨-, b, hb, e⟩ := h.gpio
    rw [bothResistors, e, setBank_banks, PortTable.get_set_self]
    exact not_both_of_oppositeOff hr (hoff b hb)
  · rwa [bothResistors_storeReg h.store (.inr fun k' e => ?_)]
    cases e
    exact getLsbD_of_bitsWithin_oneHot (bitsWithin_self _) fun e => hpin ⟨rfl, Fin.ext e⟩

/-- The progress of CONFIGURE_PIN on the operands of its word. -/
theorem configureProgress_of_inv {port pin dir res} {p : Port} {i : Fin 8} {r : Resistor} {s : State} (hs : Inv s)
    (hb : s.busy = true) (hd : decode s.cmd = .command (.configurePin port pin dir res)) (h0 : s.stepNo.toNat ≠ 0)
    (ho : configureOperands port pin res = some (p, i, r)) :
    configureProgress p i dir r s.stepNo.toNat s.board s.regs := by
  obtain e | ⟨p', i', r', ho', hprog⟩ := hs.commandProgress hb hd
  · exact absurd e h0
  · cases ho.symm.trans ho'; exact hprog

/-- Settles O19: S2 clears the opposite resistor's bit, and at S3 the invariant has that bit clear. -/
theorem resistorsNeverBothEnabled : Obligations.ResistorsNeverBothEnabled := by
  intro s t c q j hs hb hd h hn
  change ¬ bothResistors t.regs q j
  obtain ⟨port, pin, dir, res, rfl⟩ | hi := configurePin_or_not c
  · obtain h | ⟨p, i, r, ho, ⟨-, h⟩ | ⟨k, -, hk, h⟩ | ⟨k, h3, hk, h⟩ | ⟨-, h⟩ | ⟨-, h⟩⟩ := configurePin_next h
    · obtain ⟨-, -, -, -, -, -, -, e⟩ := h.frame
      rwa [e]
    · rwa [bothResistors_storeReg (q := q) h.store (.inl ⟨nofun, nofun⟩)]
    · exact resistor_step_not_both h (ne_none_of_oppositeReg hk) (fun _ => oppositeOff_of_clear hk) hn
    · obtain ⟨-, -, -, hoff, -⟩ := configureProgress_of_inv hs hb hd (by omega) ho
      exact resistor_step_not_both h (ne_none_of_requestedReg hk)
        (fun _ hw => oppositeOff_kept_by_set hk hw (hoff (by omega))) hn
    · rwa [bothResistors_storeReg (q := q) h.store (.inl ⟨nofun, nofun⟩)]
    · rwa [bothResistors_storeReg (q := q) h.store (.inl ⟨nofun, nofun⟩)]
  · obtain ⟨-, -, -, -, -, -, -, hpin, -⟩ := commandFrames c s t h
    obtain ⟨-, hbanks⟩ := hpin hi
    obtain ⟨-, hpur, hpdr, -⟩ := hbanks q
    rw [bothResistors, hpur, hpdr]
    exact hn

end Sys2Proof.Machine

namespace Sys2Proof.Machine

/-! ### The steps of the PWM commands -/

/-- Settles O28, by the equation of each step. -/
theorem initPwmSteps : Obligations.InitPwmSteps := fun _ _ s =>
  ⟨exec_initPwm_start, exec_initPwm_stop, exec_initPwm_load, exec_initPwm_compare,
    fun h he => ⟨s.stepNo, exec_initPwm_run h he⟩⟩

/-- Settles O31, by the equation of each step. -/
theorem setDutySteps : Obligations.SetDutySteps := fun _ s =>
  ⟨exec_setDuty_start, exec_setDuty_read, fun h => ⟨s.stepNo, s.tmp, exec_setDuty_compare h⟩⟩

theorem boundedCompare_toNat (cmp load : PwmWord) : (boundedCompare cmp load).toNat = min cmp.toNat load.toNat := by
  obtain h | h := Nat.lt_or_ge load.toNat cmp.toNat
  · rw [boundedCompare_of_lt h, Nat.min_eq_right h.le]
  · rw [boundedCompare_of_le h, Nat.min_eq_left h]

theorem pwmEnabled_started (w : RegWord) : pwmEnabled (merge w 0x3 0x1) = true := by
  rw [pwmEnabled, merge_getLsbD]; rfl

/-- The duty cycle of a running generator (10 R50). -/
theorem duty_of_enabled {g : RegSpace} (h : pwmEnabled g.pwmCtl = true) :
    duty g = if pwmField g.pwmLoad = 0 then none
      else some ((((pwmField g.pwmLoad).toNat : ℚ) - (g.pwmCmpAct.toNat : ℚ)) / ((pwmField g.pwmLoad).toNat : ℚ)) := by
  by_cases hl : pwmField g.pwmLoad = 0 <;> simp [duty, h, hl]

/-- Settles O30: at S4 the invariant has the load and the bounded compare value in their registers and the generator stopped,
so the start reloads CMP_ACT with the bounded value. -/
theorem initPwmEndState : Obligations.InitPwmEndState := by
  intro load cmp s hs hb hd h4
  have hk : s.stepNo.toNat = 4 := by rw [h4]; rfl
  obtain ⟨-, hctl, hload, hcmp⟩ := hs.commandProgress hb hd
  obtain ⟨hoff, -⟩ := hctl (by omega)
  have hload : pwmField s.regs.pwmLoad = load := hload (by omega)
  have hcmp : pwmField s.regs.pwmCmp = boundedCompare cmp load := hcmp (by omega)
  refine ⟨_, exec_initPwm_run h4 hoff, rfl, rfl, hload, ?_, rfl, ?_⟩
  · exact (congrArg BitVec.toNat hcmp).trans (boundedCompare_toNat cmp load)
  · rw [duty_of_enabled (pwmEnabled_started s.regs.pwmCtl)]
    simp only [State.respond_regs, State.wrote_regs, reloadPwm, hload, hcmp, boundedCompare_toNat]

/-! ### The end states of the pin commands -/

/-- Settles O18: at S5 the invariant has the clock on, the resistors as asked and the direction written. -/
theorem configurePinEndState : Obligations.ConfigurePinEndState := by
  intro port pin dir res p i r s hs hb hd h5 ho
  have hk : s.stepNo.toNat = 5 := by rw [h5]; rfl
  obtain ⟨-, hclk, -, hoff, hon, hdir⟩ := configureProgress_of_inv hs hb hd (by omega) ho
  have hclk := hclk (by omega)
  have hoff := hoff (by omega)
  have hon := hon (by omega)
  have hdir := hdir (by omega)
  refine ⟨_, exec_configurePin_enable ho h5 hclk rfl, rfl, rfl, hclk, ?_⟩
  simp only [State.respond_regs, State.wrote_regs, setBank_banks, PortTable.get_set_self]
  refine ⟨hdir.trans (by cases dir <;> rfl), pinBit_merge_set _ i, ?_, ?_⟩
  · rintro rfl; exact ⟨hon, hoff⟩
  · rintro rfl; exact ⟨hon, hoff⟩

theorem attachProgress_of_inv {port pin prio edge} {p : Port} {i : Fin 8} {s : State} (hs : Inv s)
    (hb : s.busy = true) (hd : decode s.cmd = .command (.attachInterrupt port pin prio edge)) (h0 : s.stepNo.toNat ≠ 0)
    (ho : attachOperands port pin prio = some (p, i)) :
    attachProgress p i prio edge s.stepNo.toNat s.board s.regs := by
  obtain e | ⟨p', i', ho', hprog⟩ := hs.commandProgress hb hd
  · exact absurd e h0
  · cases ho.symm.trans ho'; exact hprog

/-- Settles O23: at S6 the invariant has the effects of the steps before, and the line's enable is written last. -/
theorem attachInterruptEndState : Obligations.AttachInterruptEndState := by
  intro port pin prio edge p i s hs hb hd h6 ho
  have hk : s.stepNo.toNat = 6 := by rw [h6]; rfl
  obtain ⟨-, -, his, hibe, him, hpri⟩ := attachProgress_of_inv hs hb hd (by omega) ho
  obtain ⟨-, -, hprio⟩ := attachOperands_eq_some.mp ho
  have hpri := congrArg BitVec.toNat (hpri (by omega))
  refine ⟨_, exec_attachInterrupt_enable ho h6 rfl (hs.board.irq_lt p), rfl, rfl, his (by omega),
    (hibe (by omega)).trans (by cases edge <;> rfl), him (by omega), hpri.trans ?_, ?_, rfl⟩
  · rw [BitVec.extractLsb'_toNat, Nat.shiftRight_zero]; omega
  · simp only [State.respond_regs, State.wrote_regs, State.respond_board, State.wrote_board, lineRead_lineWrite hs.enWf,
      if_true, merge_getLsbD]
    rfl

end Sys2Proof.Machine

namespace Sys2Proof.Machine

/-! ### SEQ's move, case by case -/

section
variable {s : State}

theorem seqMove_of_command {i : Instr} (hb : s.busy = true) (hd : decode s.cmd = .command i) : seqMove s = exec i s := by
  rw [seqMove, if_pos hb, hd]

/-- S0 of an illegal word (60 R196). -/
theorem seqMove_of_illegal {e : DecodeError} (hb : s.busy = true) (hd : decode s.cmd = .illegal e) (h0 : s.stepNo = 0) :
    seqMove s = .next (s.respond statusIllegalCommand 0) := by
  rw [seqMove, if_pos hb, hd]; exact if_pos h0

/-- Acceptance (30 R104). -/
theorem seqMove_of_presented {w : CmdWord} (hb : s.busy = false) (hw : s.cmdPort = some w) :
    seqMove s = .next (s.accept w) := by
  rw [seqMove, hb, hw]; rfl

theorem seqMove_of_idle (hb : s.busy = false) (hw : s.cmdPort = none) : seqMove s = .next s := by
  rw [seqMove, hb, hw]; rfl

end

/-- Settles O11, by acceptance, and by the frame of SEQ's move while busy. -/
theorem acceptanceOfCommand : Obligations.AcceptanceOfCommand := by
  refine ⟨fun s w h hb hw => ?_, fun s t h hb ht => ?_⟩
  · rw [step_of_seq h, openStep_of_seq h]; exact seqMove_of_presented hb hw
  · rw [step_of_seq h] at ht
    obtain ⟨-, i, -, hx⟩ | ⟨-, -, -, rfl⟩ | ⟨hidle, -⟩ | ⟨hidle, -⟩ := seqMove_next ht
    · obtain ⟨hcmd, hport, -⟩ := exec_keeps hx
      exact ⟨hport, hcmd⟩
    · exact ⟨rfl, rfl⟩
    all_goals exact absurd (hb.symm.trans hidle) nofun

/-- Settles O12. -/
theorem idleSequencerWaits : Obligations.IdleSequencerWaits := by
  intro s h hb hw
  rw [step_of_seq h, openStep_of_seq h]; exact seqMove_of_idle hb hw

/-- Settles O13. -/
theorem stepRunsDecodedCommand : Obligations.StepRunsDecodedCommand := by
  intro s i h hb hd
  rw [step_of_seq h, openStep_of_seq h]; exact seqMove_of_command hb hd

/-- Settles O14. -/
theorem illegalWordRejected : Obligations.IllegalWordRejected := by
  intro s e h hb h0 hd
  rw [step_of_seq h, openStep_of_seq h]; exact seqMove_of_illegal hb hd h0

/-! ### Progress: under the step table every step answers, and keeps the table -/

/-- SEQ's step of the command `i` answers a next state, and leaves the command where its step table says, if it goes on. -/
def Advances (i : Instr) (s : State) : Prop :=
  ∃ t, exec i s = .next t ∧ (t.busy = true → commandProgress i t.stepNo.toNat t)

theorem clockOn_setBank (bd : Board) (g : RegSpace) (p : Port) (b : Bank) (q : Port) :
    clockOn bd (setBank g p b) q = clockOn bd g q := rfl

/-- The step that turns the opposite resistor off has a register and an effect there (40 R112). -/
theorem exists_oppositeReg {r : Resistor} (h : r ≠ .none) (b : Bank) (m v : RegWord) :
    ∃ k b', oppositeReg r = some k ∧ bankWrite b k m v = some b' := by
  cases r with
  | none => exact absurd rfl h
  | pullUp => exact ⟨_, _, rfl, rfl⟩
  | pullDown => exact ⟨_, _, rfl, rfl⟩

/-- The step that turns the requested resistor on has a register and an effect there (40 R112). -/
theorem exists_requestedReg {r : Resistor} (h : r ≠ .none) (b : Bank) (m v : RegWord) :
    ∃ k b', requestedReg r = some k ∧ bankWrite b k m v = some b' := by
  cases r with
  | none => exact absurd rfl h
  | pullUp => exact ⟨_, _, rfl, rfl⟩
  | pullDown => exact ⟨_, _, rfl, rfl⟩

theorem stepNo_pos {s : State} (h : s.stepNo ≠ 0) : 1 ≤ s.stepNo.toNat :=
  Nat.one_le_iff_ne_zero.mpr fun e => h (stepNo_eq_of_toNat e)

theorem oppositeOff_withDir (b : Bank) (w : RegWord) (i : Fin 8) (r : Resistor) :
    oppositeOff { b with dir := w } i r = oppositeOff b i r := by cases r <;> rfl

theorem requestedOn_withDir (b : Bank) (w : RegWord) (i : Fin 8) (r : Resistor) :
    requestedOn { b with dir := w } i r = requestedOn b i r := by cases r <;> rfl

theorem configurePin_advances {port pin dir res} {s : State}
    (hp : commandProgress (.configurePin port pin dir res) s.stepNo.toNat s) :
    Advances (.configurePin port pin dir res) s := by
  by_cases h0 : s.stepNo = 0
  · cases ho : configureOperands port pin res with
    | none => exact ⟨_, exec_configurePin_reject ho h0, fun h => by cases h⟩
    | some x =>
      obtain ⟨p, i, r⟩ := x
      exact ⟨_, exec_configurePin_start ho h0, fun _ => .inr ⟨p, i, r, ho, by simp [configureProgress]⟩⟩
  obtain e | ⟨p, i, r, ho, hle, hclk, hres, hoff, hon, hdir⟩ := hp
  · exact absurd (stepNo_eq_of_toNat e) h0
  have hpos := stepNo_pos h0
  interval_cases hk : s.stepNo.toNat
  · refine ⟨_, exec_configurePin_clock ho (stepNo_eq_of_toNat hk), fun _ => .inr ⟨p, i, r, ho, ?_⟩⟩
    cases r <;> simp [configureProgress, afterClock, clockOn_of_clkBit_set, oppositeOff, requestedOn]
  · have hc := hclk (by omega)
    have hr := hres (by omega)
    obtain ⟨k, b, hopp, hw⟩ := exists_oppositeReg hr (s.regs.banks.get p) (oneHot i.val) 0
    refine ⟨_, exec_configurePin_opposite ho (stepNo_eq_of_toNat hk) hopp hc rfl hw, fun _ => .inr ⟨p, i, r, ho, ?_⟩⟩
    simp [configureProgress, clockOn_setBank, hc, hr, oppositeOff_of_clear hopp hw]
  · have hc := hclk (by omega)
    have hr := hres (by omega)
    obtain ⟨k, b, hreq, hw⟩ := exists_requestedReg hr (s.regs.banks.get p) (oneHot i.val) (oneHot i.val)
    refine ⟨_, exec_configurePin_requested ho (stepNo_eq_of_toNat hk) hreq hc rfl hw, fun _ => .inr ⟨p, i, r, ho, ?_⟩⟩
    simp [configureProgress, clockOn_setBank, hc, oppositeOff_kept_by_set hreq hw (hoff (by omega)),
      requestedOn_of_set hreq hw]
  · have hc := hclk (by omega)
    refine ⟨_, exec_configurePin_direction ho (stepNo_eq_of_toNat hk) hc rfl, fun _ => .inr ⟨p, i, r, ho, ?_⟩⟩
    simp [configureProgress, clockOn_setBank, hc, pinBit_merge_put, oppositeOff_withDir, requestedOn_withDir,
      hoff (by omega), hon (by omega)]
  · exact ⟨_, exec_configurePin_enable ho (stepNo_eq_of_toNat hk) (hclk (by omega)) rfl, fun h => by cases h⟩

/-- The priority's low bits are the same in the operand and in the word written (41 R131). -/
theorem extractLsb_prio (prio : BitVec 8) : (BitVec.ofNat 32 prio.toNat).extractLsb' 0 3 = prio.extractLsb' 0 3 := by
  apply BitVec.eq_of_toNat_eq
  simp only [BitVec.extractLsb'_toNat, BitVec.toNat_ofNat, Nat.shiftRight_zero]
  omega

theorem attachInterrupt_advances {port pin prio edge} {s : State} (hwf : s.regs.icPri.wf)
    (hline : ∀ p, s.board.irqLine p < s.board.nlines)
    (hp : commandProgress (.attachInterrupt port pin prio edge) s.stepNo.toNat s) :
    Advances (.attachInterrupt port pin prio edge) s ∨
    ∃ p i, s.stepNo = 1 ∧ attachOperands port pin prio = some (p, i) ∧ clockOn s.board s.regs p = false := by
  by_cases h0 : s.stepNo = 0
  · cases ho : attachOperands port pin prio with
    | none => exact .inl ⟨_, exec_attachInterrupt_reject ho h0, fun h => by cases h⟩
    | some x =>
      obtain ⟨p, i⟩ := x
      exact .inl ⟨_, exec_attachInterrupt_start ho h0, fun _ => .inr ⟨p, i, ho, by simp [attachProgress]⟩⟩
  obtain e | ⟨p, i, ho, hle, hclk, his, hibe, him, hpri⟩ := hp
  · exact absurd (stepNo_eq_of_toNat e) h0
  have hg := (setBank_get_self s.regs p).symm
  have hpos := stepNo_pos h0
  interval_cases hk : s.stepNo.toNat
  · cases hc : clockOn s.board s.regs p with
    | false => exact .inr ⟨p, i, stepNo_eq_of_toNat hk, ho, hc⟩
    | true =>
      refine .inl ⟨_, exec_attachInterrupt_sense ho (stepNo_eq_of_toNat hk) hc hg, fun _ => .inr ⟨p, i, ho, ?_⟩⟩
      simpa [attachProgress, clockOn_setBank, hc] using pinBit_merge_clear _ i
  · have hc := hclk (by omega)
    refine .inl ⟨_, exec_attachInterrupt_edge ho (stepNo_eq_of_toNat hk) hc hg, fun _ => .inr ⟨p, i, ho, ?_⟩⟩
    simp [attachProgress, clockOn_setBank, hc, pinBit_merge_put, his]
  · have hc := hclk (by omega)
    refine .inl ⟨_, exec_attachInterrupt_clear ho (stepNo_eq_of_toNat hk) hc hg, fun _ => .inr ⟨p, i, ho, ?_⟩⟩
    simp [attachProgress, clockOn_setBank, hc, his, hibe]
  · have hc := hclk (by omega)
    refine .inl ⟨_, exec_attachInterrupt_arm ho (stepNo_eq_of_toNat hk) hc hg, fun _ => .inr ⟨p, i, ho, ?_⟩⟩
    simp [attachProgress, clockOn_setBank, hc, his, hibe, pinBit_merge_set]
  · refine .inl ⟨_, exec_attachInterrupt_priority ho (stepNo_eq_of_toNat hk) rfl (hline p),
      fun _ => .inr ⟨p, i, ho, Nat.le_refl _, fun _ => hclk (by omega), fun _ => his (by omega), fun _ => hibe (by omega),
        fun _ => him (by omega), fun _ => ?_⟩⟩
    simp only [State.goto_regs, State.goto_board, State.wrote_regs, State.wrote_board, lineRead_lineWrite hwf, if_true]
    exact (merge_slice_written _ _ _ 0 3 (by decide)).trans (extractLsb_prio prio)
  · exact .inl ⟨_, exec_attachInterrupt_enable ho (stepNo_eq_of_toNat hk) rfl (hline p), fun h => by cases h⟩

/-- S1 of a direction command has cleared the line `off` when S2 asserts `on` (42 R143, R144). -/
theorem driveStep_advances {off on : Nat} {s : State} (hle : s.stepNo.toNat ≤ 2) (hoff : off < 2) :
    ∃ t, driveStep off on s = .next t ∧
      (t.busy = true → t.stepNo.toNat ≤ 2 ∧ (t.stepNo.toNat = 2 → t.regs.actDrv.getLsbD off = false)) := by
  interval_cases hk : s.stepNo.toNat
  · exact ⟨_, driveStep_start (stepNo_eq_of_toNat hk), fun _ => by simp⟩
  · refine ⟨_, driveStep_break (stepNo_eq_of_toNat hk), fun _ => ⟨Nat.le_refl _, fun _ => ?_⟩⟩
    rw [← merge_zeros]
    exact (merge_clear_getLsbD _ _ _ (by omega)).trans (if_pos rfl)
  · exact ⟨_, driveStep_make (stepNo_eq_of_toNat hk), fun h => by cases h⟩

theorem actStop_advances {s : State} (hle : s.stepNo.toNat ≤ 1) : Advances .actStop s := by
  interval_cases hk : s.stepNo.toNat
  · exact ⟨_, exec_actStop_start (stepNo_eq_of_toNat hk), fun _ => (by decide : (1 : StepNo).toNat ≤ 1)⟩
  · exact ⟨_, exec_actStop_release (stepNo_eq_of_toNat hk), fun h => by cases h⟩

theorem pwmMode_stopped (w : RegWord) : pwmMode (w &&& ~~~0x3) = false := by
  rw [← merge_zeros, pwmMode, merge_getLsbD]; rfl

theorem initPwm_advances {load cmp : PwmWord} {s : State} (hp : commandProgress (.initPwm load cmp) s.stepNo.toNat s) :
    Advances (.initPwm load cmp) s := by
  obtain ⟨hle, hctl, hload, hcmp⟩ := hp
  interval_cases hk : s.stepNo.toNat
  · exact ⟨_, exec_initPwm_start (stepNo_eq_of_toNat hk), fun _ => by simp [commandProgress]⟩
  · refine ⟨_, exec_initPwm_stop (stepNo_eq_of_toNat hk), fun _ => ?_⟩
    simpa [commandProgress] using And.intro (pwmEnabled_stopped s.regs.pwmCtl) (pwmMode_stopped s.regs.pwmCtl)
  · refine ⟨_, exec_initPwm_load (stepNo_eq_of_toNat hk), fun _ => ?_⟩
    simpa [commandProgress, hctl] using pwmField_merge s.regs.pwmLoad load
  · refine ⟨_, exec_initPwm_compare (stepNo_eq_of_toNat hk), fun _ => ?_⟩
    simpa [commandProgress, hctl, hload] using pwmField_merge s.regs.pwmCmp (boundedCompare cmp load)
  · obtain ⟨hoff, -⟩ := hctl (by omega)
    exact ⟨_, exec_initPwm_run (stepNo_eq_of_toNat hk) hoff, fun h => by cases h⟩

theorem setDuty_advances {cmp : PwmWord} {s : State} (hle : s.stepNo.toNat ≤ 2) : Advances (.setDuty cmp) s := by
  interval_cases hk : s.stepNo.toNat
  · exact ⟨_, exec_setDuty_start (stepNo_eq_of_toNat hk), fun _ => by simp [commandProgress]⟩
  · exact ⟨_, exec_setDuty_read (stepNo_eq_of_toNat hk), fun _ => ⟨Nat.le_refl _, fun _ => rfl⟩⟩
  · exact ⟨_, exec_setDuty_compare (stepNo_eq_of_toNat hk), fun h => by cases h⟩

theorem transmitByte_advances {byte : Byte} {s : State}
    (hp : commandProgress (.transmitByte byte) s.stepNo.toNat s) : Advances (.transmitByte byte) s := by
  obtain ⟨hle, hready⟩ := hp
  interval_cases hk : s.stepNo.toNat
  · exact ⟨_, exec_transmitByte_start (stepNo_eq_of_toNat hk), fun _ => by simp [commandProgress]⟩
  · refine ⟨_, exec_transmitByte_poll (stepNo_eq_of_toNat hk), fun _ => ?_⟩
    cases h : s.regs.txRdy <;> simp [commandProgress, h]
  · exact ⟨_, exec_transmitByte_send (stepNo_eq_of_toNat hk) (hready rfl), fun h => by cases h⟩

theorem receiveByte_advances {s : State} (hp : commandProgress .receiveByte s.stepNo.toNat s) :
    Advances .receiveByte s := by
  obtain ⟨hle, hwaits⟩ := hp
  interval_cases hk : s.stepNo.toNat
  · exact ⟨_, exec_receiveByte_start (stepNo_eq_of_toNat hk), fun _ => by simp [commandProgress]⟩
  · refine ⟨_, exec_receiveByte_poll (stepNo_eq_of_toNat hk), fun _ => ?_⟩
    cases h : rxAvl s.regs with
    | false => simp [commandProgress]
    | true => simp [commandProgress, rxAvl_eq_true.mp h]
  · obtain ⟨b, rest, hq⟩ := List.exists_cons_of_ne_nil (hwaits rfl)
    exact ⟨_, exec_receiveByte_take (stepNo_eq_of_toNat hk) hq, fun h => by cases h⟩

/-- A command that is where its step table says answers a next state and stays where the table says, but for ATTACH_INTERRUPT
at S1 on a port whose clock is off (60 R218). -/
theorem exec_advances {i : Instr} {s : State} (hwf : s.regs.icPri.wf) (hboard : s.board.WF)
    (hp : commandProgress i s.stepNo.toNat s) :
    Advances i s ∨
    ∃ port pin prio edge p k, i = .attachInterrupt port pin prio edge ∧ s.stepNo = 1 ∧
      attachOperands port pin prio = some (p, k) ∧ clockOn s.board s.regs p = false := by
  cases i with
  | configurePin port pin dir res => exact .inl (configurePin_advances hp)
  | attachInterrupt port pin prio edge =>
    obtain h | ⟨p, k, h⟩ := attachInterrupt_advances hwf hboard.irq_lt hp
    · exact .inl h
    · exact .inr ⟨port, pin, prio, edge, p, k, rfl, h⟩
  | actForward => exact .inl (driveStep_advances hp.1 (by decide))
  | actReverse => exact .inl (driveStep_advances hp.1 (by decide))
  | actStop => exact .inl (actStop_advances hp)
  | initPwm load cmp => exact .inl (initPwm_advances hp)
  | setDuty cmp => exact .inl (setDuty_advances hp.1)
  | transmitByte byte => exact .inl (transmitByte_advances hp)
  | receiveByte => exact .inl (receiveByte_advances hp)

/-- Settles O24. -/
theorem attachToUnclockedPortFaults : Obligations.AttachToUnclockedPortFaults := by
  intro port pin prio edge p i s ho h1 hc
  have hstep : attachStep p i prio edge s = thenGoto 2 (clrBit (.gpio p .is) i.val s) := by rw [attachStep, h1]; rfl
  rw [exec_attachInterrupt_of_operands ho (by rw [h1]; decide), hstep, clrBit, memWriteMasked_gpio rfl, hc]
  rfl

/-- Settles O45: what is left when the step does not advance is the fault of R218. -/
theorem sequencerStopsOnlyUnclocked : Obligations.SequencerStopsOnlyUnclocked := by
  intro s hs
  cases hb : s.busy with
  | false =>
    cases hw : s.cmdPort with
    | none => exact .inl ⟨s, seqMove_of_idle hb hw⟩
    | some w => exact .inl ⟨_, seqMove_of_presented hb hw⟩
  | true =>
    cases hd : decode s.cmd with
    | illegal e =>
      have h0 := hs.progress hb
      rw [sequencerInv, hd] at h0
      exact .inl ⟨_, seqMove_of_illegal hb hd h0⟩
    | command i =>
      rw [seqMove_of_command hb hd]
      obtain ⟨t, ht, -⟩ | ⟨port, pin, prio, edge, p, k, rfl, h1, ho, hc⟩ :=
        exec_advances hs.priWf hs.board (hs.commandProgress hb hd)
      · exact .inl ⟨t, ht⟩
      · exact .inr ⟨port, pin, prio, edge, p, k, rfl, rfl, h1, ho, hc,
          attachToUnclockedPortFaults port pin prio edge p k s ho h1 hc⟩

end Sys2Proof.Machine

namespace Sys2Proof.Machine

/-! ### The controller's registers under every move -/

/-- The controller's registers are in canonical form, over the lines that exist: that part of the invariant. -/
structure LinesOk (bd : Board) (g : RegSpace) : Prop where
  enWf     : g.icEn.wf
  priWf    : g.icPri.wf
  enBelow  : LineFile.below bd.nlines g.icEn
  priBelow : LineFile.below bd.nlines g.icPri

theorem LinesOk.congr {bd : Board} {g g' : RegSpace} (h : LinesOk bd g) (hen : g'.icEn = g.icEn)
    (hpri : g'.icPri = g.icPri) : LinesOk bd g' :=
  ⟨hen ▸ h.enWf, hpri ▸ h.priWf, hen ▸ h.enBelow, hpri ▸ h.priBelow⟩

theorem LinesOk.writeEn {bd : Board} {g : RegSpace} (h : LinesOk bd g) {l : Nat} (hl : l < bd.nlines) (w : RegWord) :
    LinesOk bd { g with icEn := lineWrite g.icEn l w } :=
  ⟨lineWrite_wf h.enWf l w, h.priWf, lineWrite_below h.enBelow hl w, h.priBelow⟩

theorem LinesOk.writePri {bd : Board} {g : RegSpace} (h : LinesOk bd g) {l : Nat} (hl : l < bd.nlines) (w : RegWord) :
    LinesOk bd { g with icPri := lineWrite g.icPri l w } :=
  ⟨h.enWf, lineWrite_wf h.priWf l w, h.enBelow, lineWrite_below h.priBelow hl w⟩

theorem linesOk_of_inv {s : State} (h : Inv s) : LinesOk s.board s.regs := ⟨h.enWf, h.priWf, h.enBelow, h.priBelow⟩

/-- An access that does not fault names a line that exists. -/
theorem line_lt_of_access {bd : Board} {l : Nat} {f : Fault} (h : (if l < bd.nlines then none else some f) = none) :
    l < bd.nlines := by
  by_contra hl
  rw [if_neg hl] at h; cases h

theorem LinesOk.storeReg {bd : Board} {stays : Bool} {r : RegId} {m v : RegWord} {g g' : RegSpace} (h : LinesOk bd g)
    (ha : accessFault bd g r = none) (hg : storeReg stays r m v g = .next g') : LinesOk bd g' := by
  cases r with
  | icEn l => cases hg; exact h.writeEn (line_lt_of_access ha) _
  | icPri l => cases hg; exact h.writePri (line_lt_of_access ha) _
  | _ =>
    obtain ⟨-, -, hen, hpri, -⟩ := storeReg_frame hg
    exact h.congr (hen nofun) (hpri nofun)

theorem LinesOk.changeOutside {bd : Board} {g : RegSpace} (h : LinesOk bd g) (r : RegId) (v : RegWord) :
    LinesOk bd (changeOutside bd r v g) := by
  cases r with
  | icEn l =>
    simp only [Machine.changeOutside]
    split
    · exact h.writeEn ‹_› _
    · exact h
  | icPri l =>
    simp only [Machine.changeOutside]
    split
    · exact h.writePri ‹_› _
    · exact h
  | _ => exact h.congr rfl rfl

theorem linesOk_powerOn (bd : Board) (contents : RegSpace) : LinesOk bd (powerOn bd contents) :=
  ⟨lineCanonical_wf _ _, lineCanonical_wf _ _, lineCanonical_below _ _, lineCanonical_below _ _⟩

theorem exec_keeps_linesOk {i : Instr} {s t : State} (h : LinesOk s.board s.regs) (hx : exec i s = .next t) :
    LinesOk s.board t.regs := by
  cases exec_effect hx with
  | silent hx =>
    obtain ⟨-, -, -, -, -, -, -, e⟩ := hx.frame
    rwa [e]
  | write _ hx =>
    obtain ⟨-, -, -, -, -, -, -, ha, hg⟩ := hx.frame
    exact h.storeReg ha hg
  | load => exact h
  | poll => exact h
  | take => exact h.congr rfl rfl

theorem seqMove_keeps_linesOk {s t : State} (h : LinesOk s.board s.regs) (hm : seqMove s = .next t) :
    LinesOk s.board t.regs := by
  obtain ⟨-, i, -, hx⟩ | ⟨-, -, -, rfl⟩ | ⟨-, w, -, rfl⟩ | ⟨-, -, rfl⟩ := seqMove_next hm
  · exact exec_keeps_linesOk h hx
  all_goals exact h

/-! ### What PLAT leaves of the registers' fields -/

/-- The configuration of every pin of a bank is the same: all its fields but IEV and PEND, which are PLAT's. -/
structure SamePins (b b' : Bank) : Prop where
  dir : ∀ i, pinBit b'.dir i = pinBit b.dir i
  pur : ∀ i, pinBit b'.pur i = pinBit b.pur i
  pdr : ∀ i, pinBit b'.pdr i = pinBit b.pdr i
  is  : ∀ i, pinBit b'.is i = pinBit b.is i
  ibe : ∀ i, pinBit b'.ibe i = pinBit b.ibe i
  im  : ∀ i, pinBit b'.im i = pinBit b.im i

theorem SamePins.refl (b : Bank) : SamePins b b :=
  ⟨fun _ => rfl, fun _ => rfl, fun _ => rfl, fun _ => rfl, fun _ => rfl, fun _ => rfl⟩

/-- The fields that a command in progress relies on are the same, TXRDY has not fallen and RXQ has not run empty. -/
structure SameFields (bd : Board) (g g' : RegSpace) : Prop where
  clock    : ∀ p, clockOn bd g' p = clockOn bd g p
  pins     : ∀ p, SamePins (g.banks.get p) (g'.banks.get p)
  priority : ∀ l, (lineRead g'.icPri l).extractLsb' 0 3 = (lineRead g.icPri l).extractLsb' 0 3
  lines    : driveLines g' = driveLines g
  enabled  : pwmEnabled g'.pwmCtl = pwmEnabled g.pwmCtl
  mode     : pwmMode g'.pwmCtl = pwmMode g.pwmCtl
  load     : pwmField g'.pwmLoad = pwmField g.pwmLoad
  cmp      : pwmField g'.pwmCmp = pwmField g.pwmCmp
  ready    : g.txRdy = true → g'.txRdy = true
  waits    : g.rxq ≠ [] → g'.rxq ≠ []

theorem SameFields.refl (bd : Board) (g : RegSpace) : SameFields bd g g :=
  ⟨fun _ => rfl, fun _ => .refl _, fun _ => rfl, rfl, rfl, rfl, rfl, rfl, id, id⟩

/-- A new bank with the pins as they were. -/
theorem SameFields.setBank {bd : Board} {g : RegSpace} {p : Port} {b : Bank} (h : SamePins (g.banks.get p) b) :
    SameFields bd g (setBank g p b) := by
  refine ⟨fun _ => rfl, fun q => ?_, fun _ => rfl, rfl, rfl, rfl, rfl, rfl, id, id⟩
  rw [setBank_banks, PortTable.get_set]
  split
  · subst q; exact h
  · exact .refl _

/-- The reload and the count change the hidden PWM state alone (10 R49). -/
theorem reloadStep_eq (g : RegSpace) : ∃ a c, reloadStep g = { g with pwmCmpAct := a, pwmCount := c } := by
  unfold reloadStep
  split
  · exact ⟨_, _, rfl⟩
  · exact ⟨g.pwmCmpAct, g.pwmCount, rfl⟩

theorem countStep_eq (g : RegSpace) : ∃ c, countStep g = { g with pwmCount := c } := by
  unfold countStep
  split
  · exact ⟨_, rfl⟩
  · exact ⟨g.pwmCount, rfl⟩

/-! ### Bits outside the fields (10 R28) -/

theorem pinBit_outside (w v : RegWord) (i : Fin 8) : pinBit (merge w (~~~0xFF) v) i = pinBit w i := by
  have hm : ∀ i : Fin 8, (~~~0xFF : RegWord).getLsbD i.val = false := by decide
  rw [pinBit, merge_getLsbD, if_neg (by rw [hm]; exact Bool.false_ne_true)]; rfl

theorem samePins_outside (b : Bank) (k : BankReg) (v : RegWord) : SamePins b (bankOutside b k v) := by
  cases k <;> constructor <;> intro i <;> simp only [bankOutside, pinBit_outside]

/-- The clock bit of every port is a field of SYS.CLKGATE (10 R29). -/
theorem clockField_getLsbD (bd : Board) (p : Port) : (clockField bd).getLsbD (bd.clkBit p) = true := by
  have h := bd.clkBit_lt p
  cases p <;> simp [clockField, Port.all, oneHot_getLsbD, h, -BitVec.getLsbD_eq_getElem]

theorem clockOn_outside (bd : Board) (v : RegWord) (g : RegSpace) (p : Port) :
    clockOn bd { g with clkgate := merge g.clkgate (~~~clockField bd) v } p = clockOn bd g p := by
  rw [clockOn, merge_getLsbD, BitVec.getLsbD_not, clockField_getLsbD, Bool.not_true, Bool.and_false,
    if_neg Bool.false_ne_true, clockOn]

theorem SameFields.changeOutside {bd : Board} {g : RegSpace} (h : LinesOk bd g) (r : RegId) (v : RegWord) :
    SameFields bd g (changeOutside bd r v g) := by
  have hrefl := SameFields.refl bd g
  cases r with
  | sysClkgate => exact { hrefl with clock := clockOn_outside bd v g }
  | gpio p k => exact .setBank (samePins_outside _ k v)
  | icEn l =>
    simp only [Machine.changeOutside]
    split
    · exact { hrefl with }
    · exact hrefl
  | icPri l =>
    simp only [Machine.changeOutside]
    split
    · refine { hrefl with priority := fun l' => ?_ }
      simp only [lineRead_lineWrite h.priWf]
      split
      · subst l'; exact merge_slice_kept _ _ _ 0 3 (by simp only [fieldMask]; decide)
      · rfl
    · exact hrefl
  | actDrv => exact { hrefl with lines := driveLines_merge_kept g _ v (by simp only [fieldMask]; decide) }
  | pwmCtl =>
    have hbit : ∀ j, j < 2 → (merge g.pwmCtl (~~~0x3) v).getLsbD j = g.pwmCtl.getLsbD j := fun j hj => by
      have hm : ∀ j, j < 2 → (~~~0x3 : RegWord).getLsbD j = false := by decide
      rw [merge_getLsbD, if_neg (by rw [hm j hj]; exact Bool.false_ne_true)]
    exact { hrefl with enabled := hbit 0 (by decide), mode := hbit 1 (by decide) }
  | pwmLoad => exact { hrefl with load := merge_slice_kept _ _ _ 0 16 (by simp only [fieldMask]; decide) }
  | pwmCmp => exact { hrefl with cmp := merge_slice_kept _ _ _ 0 16 (by simp only [fieldMask]; decide) }
  | uartFlags => exact { hrefl with }
  | uartData => exact { hrefl with }

/-! ### Progress does not depend on what PLAT may change -/

theorem oppositeOff_samePins {b b' : Bank} (h : SamePins b b') (i : Fin 8) (r : Resistor) :
    oppositeOff b' i r ↔ oppositeOff b i r := by
  cases r with
  | none => exact Iff.rfl
  | pullUp => rw [oppositeOff, h.pdr i, oppositeOff]
  | pullDown => rw [oppositeOff, h.pur i, oppositeOff]

theorem requestedOn_samePins {b b' : Bank} (h : SamePins b b') (i : Fin 8) (r : Resistor) :
    requestedOn b' i r ↔ requestedOn b i r := by
  cases r with
  | none => exact Iff.rfl
  | pullUp => rw [requestedOn, h.pur i, requestedOn]
  | pullDown => rw [requestedOn, h.pdr i, requestedOn]

/-- A command stays where its step table says through moves that keep its fields and leave SEQ alone. -/
theorem commandProgress_of_sameFields {i : Instr} {k : Nat} {s t : State} (h : commandProgress i k s)
    (hf : SameFields s.board s.regs t.regs) (hb : t.board = s.board) (ht : t.tmp = s.tmp) : commandProgress i k t := by
  have hline : ∀ j, j < 2 → t.regs.actDrv.getLsbD j = s.regs.actDrv.getLsbD j := fun j hj => by
    rw [← driveLines_getLsbD _ hj, hf.lines, driveLines_getLsbD _ hj]
  cases i with
  | configurePin port pin dir res =>
    refine h.imp_right ?_
    rintro ⟨p, j, r, ho, hprog⟩
    refine ⟨p, j, r, ho, ?_⟩
    rw [configureProgress, hb, hf.clock, oppositeOff_samePins (hf.pins p), requestedOn_samePins (hf.pins p), (hf.pins p).dir]
    exact hprog
  | attachInterrupt port pin prio edge =>
    refine h.imp_right ?_
    rintro ⟨p, j, ho, hprog⟩
    refine ⟨p, j, ho, ?_⟩
    rw [attachProgress, hb, hf.clock, (hf.pins p).is, (hf.pins p).ibe, (hf.pins p).im, hf.priority]
    exact hprog
  | actForward => exact ⟨h.1, fun e => (hline 1 (by decide)).trans (h.2 e)⟩
  | actReverse => exact ⟨h.1, fun e => (hline 0 (by decide)).trans (h.2 e)⟩
  | actStop => exact h
  | initPwm load cmp => rw [commandProgress, hf.enabled, hf.mode, hf.load, hf.cmp]; exact h
  | setDuty cmp => rw [commandProgress, ht, hf.load]; exact h
  | transmitByte byte => exact ⟨h.1, fun e => hf.ready (h.2 e)⟩
  | receiveByte => exact ⟨h.1, fun e => hf.waits (h.2 e)⟩

end Sys2Proof.Machine

namespace Sys2Proof.Machine

/-! ### The moves that leave SEQ alone -/

/-- The move is SEQ's own, or a reset: the moves that may change BUSY, CMD, STEP and TMP. -/
def movesSequencer : Move → Bool
  | .seq => true
  | .reset _ _ _ => true
  | .platformReset _ _ _ => true
  | _ => false

/-- BUSY, CMD, STEP, TMP, the response and the parameters are the same. -/
structure SameSequencer (s t : State) : Prop where
  busy   : t.busy = s.busy
  cmd    : t.cmd = s.cmd
  stepNo : t.stepNo = s.stepNo
  tmp    : t.tmp = s.tmp
  rsp    : t.rsp = s.rsp
  board  : t.board = s.board

/-- A move of PLAT, REQ or another agent leaves SEQ alone, and the port too unless it withholds an acknowledge. -/
theorem makeMove_sameSequencer {m : Move} {s t : State} (hm : movesSequencer m = false) (h : makeMove m s = .next t) :
    SameSequencer s t ∧ (m ≠ .hold → t.regPort = s.regPort) := by
  cases m with
  | seq => cases hm
  | reset => cases hm
  | platformReset => cases hm
  | hold => cases h; exact ⟨⟨rfl, rfl, rfl, rfl, rfl, rfl⟩, fun e => absurd rfl e⟩
  | present w => cases present_next h; exact ⟨⟨rfl, rfl, rfl, rfl, rfl, rfl⟩, fun _ => rfl⟩
  | otherWrite r m v lost =>
    obtain ⟨-, -, g, -, rfl⟩ := otherWrite_next h
    exact ⟨⟨rfl, rfl, rfl, rfl, rfl, rfl⟩, fun _ => rfl⟩
  | otherRead r =>
    obtain ⟨-, w, g, -, rfl⟩ := otherRead_next h
    exact ⟨⟨rfl, rfl, rfl, rfl, rfl, rfl⟩, fun _ => rfl⟩
  | _ => cases h; exact ⟨⟨rfl, rfl, rfl, rfl, rfl, rfl⟩, fun _ => rfl⟩

/-- The request is SEQ's own: no register and no other field has a part in it (20 R62). -/
theorem SameSequencer.request {s t : State} (h : SameSequencer s t) : request t = request s := by
  rw [Machine.request, h.busy, h.cmd, h.stepNo, h.tmp, h.board, Machine.request]

/-- The state in which SEQ's present step shows its request: the same SEQ where PLAT answers every access. -/
def answeredState (s : State) : State :=
  { State.resetOn s.board with
    busy := s.busy, cmd := s.cmd, stepNo := s.stepNo, tmp := s.tmp, regs := answeringSpace }

theorem request_of_next {s u : State} (h : seqMove (answeredState s) = .next u) :
    request s = unacknowledged u.regPort := by
  rw [answeredState] at h
  rw [request, h]

/-- A request is not acknowledged yet. -/
theorem waiting_request (s : State) : waiting (request s) = request s := by
  rw [request]
  split
  · exact waiting_unacknowledged _
  · rfl
  · rfl

/-- An idle SEQ requests nothing. -/
theorem request_of_idle {s : State} (h : s.busy = false) : request s = .idle :=
  request_of_next (seqMove_of_idle h rfl)

theorem movesSequencer_eq_false {m : Move} (hs : m ≠ .seq) (hr : ∀ landed cmd tmp, m ≠ .reset landed cmd tmp)
    (hp : isPlatformReset m = false) : movesSequencer m = false := by
  cases m with
  | seq => exact absurd rfl hs
  | reset => exact absurd rfl (hr _ _ _)
  | platformReset => cases hp
  | _ => rfl

/-- Settles O55. -/
theorem onlySequencerAndResetMoveSequencer : Obligations.OnlySequencerAndResetMoveSequencer := by
  intro s t h hs hr hp
  obtain ⟨⟨hbusy, hcmd, hstep, htmp, hrsp, -⟩, -⟩ := makeMove_sameSequencer (movesSequencer_eq_false hs hr hp) h
  exact ⟨hbusy, hcmd, hstep, htmp, hrsp⟩

/-- Settles O54. -/
theorem secondWriterRefused : Obligations.SecondWriterRefused := by
  intro s r m v lost hb h
  rw [step, h]
  exact if_pos hb

/-- Settles O34. -/
theorem step_of_reload : Obligations.ReloadStep := by
  intro s h
  rw [step, h, openStep_of_other (h ▸ nofun)]
  rfl

/-! ### The invariant, part by part -/

/-- The invariant is kept by a move that leaves SEQ alone and keeps the fields a command in progress relies on. -/
theorem inv_of_sameSequencer {s t : State} (hs : Inv s) (hq : SameSequencer s t) (hl : LinesOk s.board t.regs)
    (hf : s.busy = true → SameFields s.board s.regs t.regs)
    (hp : t.regPort = s.regPort ∨ t.regPort = request s) : Inv t := by
  obtain ⟨hbusy, hcmd, hstep, htmp, -, hboard⟩ := id hq
  refine ⟨hboard ▸ hs.board, hl.enWf, hl.priWf, hboard ▸ hl.enBelow, hboard ▸ hl.priBelow, fun hb => ?_, ?_⟩
  · rw [hbusy] at hb
    have hprog := hs.progress hb
    rw [sequencerInv, hcmd, hstep]
    rw [sequencerInv] at hprog
    cases hd : decode s.cmd with
    | command i =>
      rw [hd] at hprog
      exact commandProgress_of_sameFields hprog (hf hb) hboard htmp
    | illegal e => rw [hd] at hprog; exact hprog
  · rw [hbusy, hq.request]
    obtain e | e := hp
    · rw [e]; exact hs.port
    · rw [e, waiting_request]
      cases hb : s.busy with
      | false => exact .inl (request_of_idle hb)
      | true => exact .inr ⟨rfl, rfl⟩

/-- The invariant holds of an idle machine with an idle port. -/
theorem inv_of_idle {t : State} (hb : t.board.WF) (hbusy : t.busy = false) (hport : t.regPort = .idle)
    (hl : LinesOk t.board t.regs) : Inv t :=
  ⟨hb, hl.enWf, hl.priWf, hl.enBelow, hl.priBelow, fun h => absurd (hbusy.symm.trans h) nofun, .inl (by rw [hport]; rfl)⟩

/-- Settles O43. -/
theorem invariantAtReset : Obligations.InvariantAtReset := fun b hb =>
  inv_of_idle hb rfl rfl ⟨(reset_lines_wf b).1, (reset_lines_wf b).2, nofun, nofun⟩

/-- While a command is in progress another agent's read changes no register (93 U12). -/
theorem otherRead_regs_of_busy {r : RegId} {s t : State} (hb : s.busy = true) (h : otherRead r s = .next t) :
    t.regs = s.regs := by
  have hr : r ≠ .uartData := by
    rintro rfl
    simp [otherRead, hb] at h
  obtain ⟨-, w, g, hg, rfl⟩ := otherRead_next h
  exact loadReg_space hg hr

/-- A move that leaves SEQ alone keeps the controller's files canonical. -/
theorem makeMove_keeps_linesOk {m : Move} {s t : State} (hl : LinesOk s.board s.regs) (hm : movesSequencer m = false)
    (h : makeMove m s = .next t) : LinesOk s.board t.regs := by
  cases m with
  | seq => cases hm
  | reset => cases hm
  | platformReset => cases hm
  | present w => cases present_next h; exact hl
  | reload =>
    cases h
    obtain ⟨a, c, e⟩ := reloadStep_eq s.regs
    exact hl.congr (by simp [e]) (by simp [e])
  | countDown =>
    cases h
    obtain ⟨c, e⟩ := countStep_eq s.regs
    exact hl.congr (by simp [e]) (by simp [e])
  | outsideField r v => cases h; exact hl.changeOutside r v
  | otherWrite r m v lost =>
    obtain ⟨-, ha, g, hg, rfl⟩ := otherWrite_next h
    obtain ⟨b, hb⟩ := loseBanks_banks_only s.board s.regs lost g
    exact (hl.storeReg ha hg).congr (by simp [hb]) (by simp [hb])
  | otherRead r =>
    obtain ⟨-, w, g, hg, rfl⟩ := otherRead_next h
    obtain ⟨q, rfl⟩ := loadReg_rxq_only hg
    exact hl.congr rfl rfl
  | _ => cases h; exact hl.congr rfl rfl

/-- While a command is in progress no other agent changes a field the command relies on: PLAT by its rules, another agent
because its writes are refused (60 R219). -/
theorem makeMove_sameFields {m : Move} {s t : State} (hl : LinesOk s.board s.regs) (hb : s.busy = true)
    (hm : movesSequencer m = false) (h : makeMove m s = .next t) : SameFields s.board s.regs t.regs := by
  have hrefl := SameFields.refl s.board s.regs
  cases m with
  | seq => cases hm
  | reset => cases hm
  | platformReset => cases hm
  | hold => cases h; exact hrefl
  | present w => cases present_next h; exact hrefl
  | pinEvent p i => cases h; exact .setBank { SamePins.refl (s.regs.banks.get p) with }
  | polarity p i v => cases h; exact .setBank { SamePins.refl (s.regs.banks.get p) with }
  | reload =>
    cases h
    obtain ⟨a, c, e⟩ := reloadStep_eq s.regs
    rw [State.withRegs_regs, e]
    exact { hrefl with }
  | countDown =>
    cases h
    obtain ⟨c, e⟩ := countStep_eq s.regs
    rw [State.withRegs_regs, e]
    exact { hrefl with }
  | txFree => cases h; exact { hrefl with ready := fun _ => rfl }
  | rxByte b => cases h; exact { hrefl with waits := fun _ => List.append_ne_nil_of_right_ne_nil _ (List.cons_ne_nil b []) }
  | outsideField r v => cases h; exact .changeOutside hl r v
  | otherWrite r m v lost =>
    obtain ⟨hidle, -⟩ := otherWrite_next h
    exact absurd (hb.symm.trans hidle) nofun
  | otherRead r => rw [otherRead_regs_of_busy hb h]; exact hrefl

/-- A step of any agent but SEQ and the resets keeps the invariant. -/
theorem makeMove_keeps_inv {m : Move} {s t : State} (hs : Inv s) (hm : movesSequencer m = false)
    (h : makeMove m s = .next t) : Inv t := by
  obtain ⟨hsame, hport⟩ := makeMove_sameSequencer hm h
  have hl := linesOk_of_inv hs
  refine inv_of_sameSequencer hs hsame (makeMove_keeps_linesOk hl hm h) (fun hb => makeMove_sameFields hl hb hm h) ?_
  by_cases hhold : m = .hold
  · subst hhold; cases h; exact .inr rfl
  · exact .inl (hport hhold)

/-! ### SEQ's own move -/

/-- A new command is at S0, where no step has to have had its effect. -/
theorem commandProgress_zero (i : Instr) (s : State) : commandProgress i 0 s := by
  cases i <;> simp [commandProgress]

theorem CommandEffect.port {i : Instr} {s t : State} (h : CommandEffect i s t) (hs : s.regPort = .idle) :
    waiting t.regPort = .idle := by
  cases h with
  | silent h =>
    obtain ⟨-, -, -, -, -, -, hport, -⟩ := h.frame
    rw [hport, hs]; rfl
  | write _ h =>
    obtain ⟨-, -, -, -, -, -, hport, -⟩ := h.frame
    rw [hport]; rfl
  | load => rfl
  | poll => rfl
  | take => rfl

/-- A step of a command in progress keeps its step table. -/
theorem exec_keeps_progress {i : Instr} {s t : State} (hs : Inv s) (hb : s.busy = true) (hd : decode s.cmd = .command i)
    (h : exec i s = .next t) (ht : t.busy = true) : commandProgress i t.stepNo.toNat t := by
  obtain ⟨u, hu, hprog⟩ | ⟨port, pin, prio, edge, p, k, rfl, h1, ho, hc⟩ :=
    exec_advances hs.priWf hs.board (hs.commandProgress hb hd)
  · cases h.symm.trans hu; exact hprog ht
  · cases h.symm.trans (attachToUnclockedPortFaults port pin prio edge p k s ho h1 hc)

theorem seqMove_keeps_inv {s t : State} (hs : Inv s) (hport : s.regPort = .idle) (h : seqMove s = .next t) : Inv t := by
  have hl := seqMove_keeps_linesOk (linesOk_of_inv hs) h
  obtain ⟨hboard, -⟩ := seqMove_keeps h
  rw [← hboard] at hl
  refine ⟨hboard ▸ hs.board, hl.enWf, hl.priWf, hl.enBelow, hl.priBelow, fun ht => ?_, ?_⟩
  · obtain ⟨hb, i, hd, hx⟩ | ⟨-, -, -, rfl⟩ | ⟨-, w, -, rfl⟩ | ⟨-, -, rfl⟩ := seqMove_next h
    · obtain ⟨hcmd, -⟩ := exec_keeps hx
      rw [sequencerInv, hcmd, hd]
      exact exec_keeps_progress hs hb hd hx ht
    · cases ht
    · rw [sequencerInv]
      split
      · exact commandProgress_zero _ _
      · rfl
    · exact hs.progress ht
  · obtain ⟨-, i, -, hx⟩ | ⟨-, -, -, rfl⟩ | ⟨-, w, -, rfl⟩ | ⟨-, -, rfl⟩ := seqMove_next h
    · exact .inl ((exec_effect hx).port hport)
    all_goals exact .inl (congrArg waiting hport)

/-! ### Every step -/

/-- What every step starts from keeps the invariant: a request that waits stays up, or SEQ moves. -/
theorem inv_openStep {s : State} (hs : Inv s) : Inv s.openStep := by
  refine ⟨hs.board, hs.enWf, hs.priWf, hs.enBelow, hs.priBelow, hs.progress, ?_⟩
  rw [State.openStep_regPort]
  split
  · exact .inl rfl
  · rw [waiting_waiting]; exact hs.port

theorem openStep_regPort_of_seq {s : State} (h : nextMove s = .seq) : s.openStep.regPort = .idle := by
  rw [State.openStep_regPort, if_pos h]

/-- Settles O44: every move of every agent, from a state with the outputs of the step before withdrawn. -/
theorem stepKeepsInvariant : Obligations.StepKeepsInvariant := by
  intro s t hs h
  have hopen := inv_openStep hs
  have hidle := openStep_regPort_of_seq (s := s)
  rw [step] at h
  generalize s.openStep = u at h hopen hidle
  have hl := linesOk_of_inv hopen
  cases hm : nextMove s with
  | seq => rw [hm] at h; exact seqMove_keeps_inv hopen (hidle hm) h
  | reset landed cmd tmp =>
    rw [hm] at h
    obtain rfl | ⟨v, -, hv, rfl⟩ := resetMove_next h
    · exact inv_of_idle hopen.board rfl rfl hl
    · have hlv := seqMove_keeps_linesOk hl hv
      exact inv_of_idle hopen.board rfl rfl hlv
  | platformReset contents cmd tmp =>
    rw [hm] at h
    cases h
    exact inv_of_idle hopen.board rfl rfl (linesOk_powerOn _ contents)
  | _ => exact makeMove_keeps_inv hopen (by rw [hm]; rfl) h

end Sys2Proof.Machine

namespace Sys2Proof.Machine

/-! ### What a move can do to the serial unit and to the compare value in use -/

/-- TXRDY, TXLOG, RXQ and CMP_ACT are the same. -/
def SameSerialPwm (g g' : RegSpace) : Prop :=
  g'.txRdy = g.txRdy ∧ g'.txLog = g.txLog ∧ g'.rxq = g.rxq ∧ g'.pwmCmpAct = g.pwmCmpAct

theorem changeOutside_sameSerialPwm (bd : Board) (r : RegId) (v : RegWord) (g : RegSpace) :
    SameSerialPwm g (changeOutside bd r v g) := by
  cases r with
  | icEn l => simp only [changeOutside]; split <;> exact ⟨rfl, rfl, rfl, rfl⟩
  | icPri l => simp only [changeOutside]; split <;> exact ⟨rfl, rfl, rfl, rfl⟩
  | _ => exact ⟨rfl, rfl, rfl, rfl⟩

/-- What the move `m` can do there: SEQ's move, made or landed by a reset (70 R222); another agent's access (00 R9); the
reload, the transmitter freed, a byte arriving; else nothing. -/
inductive SerialPwmEffect (m : Move) (s t : State) : Prop where
  | seq (h : m = .seq) : seqMove s = .next t → SerialPwmEffect m s t
  | landed (cmd : CmdWord) (tmp : PwmWord) (u : State) : m = .reset true cmd tmp → seqMove s = .next u →
      s.busy = true → t.regs = u.regs → SerialPwmEffect m s t
  | write (r : RegId) (x v : RegWord) (lost b : PortTable Bank) (g : RegSpace) : m = .otherWrite r x v lost →
      storeReg (Config.txStaysReady s.draws) r x v s.regs = .next g → t.regs = { g with banks := b } → SerialPwmEffect m s t
  | read (r : RegId) (w : RegWord) : m = .otherRead r → loadReg r s.regs = .next (w, t.regs) → SerialPwmEffect m s t
  | reload : m = .reload → t.regs = reloadStep s.regs → SerialPwmEffect m s t
  | free : m = .txFree → t.regs = transmitterFree s.regs → SerialPwmEffect m s t
  | arrival (b : Byte) : m = .rxByte b → t.regs = byteReceived b s.regs → SerialPwmEffect m s t
  | quiet : SameSerialPwm s.regs t.regs → SerialPwmEffect m s t

theorem makeMove_serialPwm {m : Move} {s t : State} (hp : isPlatformReset m = false) (h : makeMove m s = .next t) :
    SerialPwmEffect m s t := by
  cases m with
  | seq => exact .seq rfl h
  | reload => cases h; exact .reload rfl rfl
  | txFree => cases h; exact .free rfl rfl
  | rxByte b => cases h; exact .arrival b rfl rfl
  | present w => cases present_next h; exact .quiet ⟨rfl, rfl, rfl, rfl⟩
  | countDown =>
    cases h
    obtain ⟨c, e⟩ := countStep_eq s.regs
    exact .quiet (by rw [State.withRegs_regs, e]; exact ⟨rfl, rfl, rfl, rfl⟩)
  | outsideField r v => cases h; exact .quiet (changeOutside_sameSerialPwm ..)
  | otherWrite r x v lost =>
    obtain ⟨-, -, g, hg, rfl⟩ := otherWrite_next h
    obtain ⟨b, hb⟩ := loseBanks_banks_only s.board s.regs lost g
    exact .write r x v lost b g rfl hg hb
  | otherRead r =>
    obtain ⟨-, w, g, hg, rfl⟩ := otherRead_next h
    exact .read r w rfl hg
  | reset landed cmd tmp =>
    cases landed with
    | false => cases h; exact .quiet ⟨rfl, rfl, rfl, rfl⟩
    | true =>
      obtain rfl | ⟨u, hb, hu, rfl⟩ := resetMove_next h
      · exact .quiet ⟨rfl, rfl, rfl, rfl⟩
      · exact .landed cmd tmp u rfl hu hb rfl
  | platformReset => cases hp
  | _ => cases h; exact .quiet ⟨rfl, rfl, rfl, rfl⟩

/-! ### The compare value in use -/

/-- The generator does not start: EN does not rise (42 R168). -/
def noStart (g g' : RegSpace) : Prop := ¬ (pwmEnabled g.pwmCtl = false ∧ pwmEnabled g'.pwmCtl = true)

theorem storeReg_keeps_cmpAct {stays : Bool} {r : RegId} {m v : RegWord} {g g' : RegSpace}
    (h : storeReg stays r m v g = .next g') (hn : noStart g g') : g'.pwmCmpAct = g.pwmCmpAct := by
  cases r with
  | pwmCtl =>
    cases h
    obtain ⟨hstart, -⟩ | ⟨-, e⟩ := writePwmCtl_cases m v g
    · exact absurd (by rwa [writePwmCtl_pwmCtl]) hn
    · rw [e]
  | _ =>
    obtain ⟨-, -, -, -, -, hctl, -⟩ := storeReg_frame h
    obtain ⟨-, hact, -⟩ := hctl nofun
    exact hact

theorem seqMove_keeps_cmpAct {s t : State} (h : seqMove s = .next t) (hn : noStart s.regs t.regs) :
    t.regs.pwmCmpAct = s.regs.pwmCmpAct := by
  obtain ⟨-, i, -, hx⟩ | ⟨-, -, -, rfl⟩ | ⟨-, w, -, rfl⟩ | ⟨-, -, rfl⟩ := seqMove_next h
  · obtain e | ⟨r, m, v, -, hg⟩ | ⟨-, q, e⟩ := (exec_effect hx).regs
    · rw [e]
    · exact storeReg_keeps_cmpAct hg hn
    · rw [e]
  all_goals rfl

/-- Settles O36: CMP_ACT changes by the reload move, by a write of PWM.CTL that starts the generator, or by a platform reset. -/
theorem noMidCycleEffect : Obligations.NoMidCycleEffect := by
  intro s t h hreload hp hn
  change noStart s.openStep.regs t.regs at hn
  change t.regs.pwmCmpAct = s.openStep.regs.pwmCmpAct
  cases makeMove_serialPwm hp h with
  | seq _ hm => exact seqMove_keeps_cmpAct hm hn
  | landed cmd tmp u _ hm _ e => rw [e] at hn ⊢; exact seqMove_keeps_cmpAct hm hn
  | write r x v lost b g _ hg e => rw [e] at hn ⊢; exact storeReg_keeps_cmpAct (g' := g) hg hn
  | read r w _ hg =>
    obtain ⟨q, e⟩ := loadReg_rxq_only hg
    rw [e]
  | reload e => exact absurd e hreload
  | free _ e => rw [e]; rfl
  | arrival b _ e => rw [e]; rfl
  | quiet hsame =>
    obtain ⟨-, -, -, hact⟩ := hsame
    exact hact

/-! ### The transmit log -/

/-- A write elsewhere leaves TXRDY and TXLOG; a write of UART.DATA appends its byte (43 R187). -/
theorem storeReg_txLog {stays : Bool} {r : RegId} {m v : RegWord} {g g' : RegSpace}
    (h : storeReg stays r m v g = .next g') :
    (g'.txLog = g.txLog ∧ g'.txRdy = g.txRdy) ∨
      (r = .uartData ∧ g.txRdy = true ∧ g'.txLog = g.txLog ++ [byteField v]) := by
  by_cases hr : r = .uartData
  · subst hr
    obtain ⟨hready, rfl⟩ := storeReg_uartData h
    exact .inr ⟨rfl, hready, rfl⟩
  · obtain ⟨-, -, -, -, -, -, -, -, htx, -⟩ := storeReg_frame h
    obtain ⟨hready, hlog⟩ := htx hr
    exact .inl ⟨hlog, hready⟩

/-- The one step of SEQ that touches TXRDY and TXLOG is S2 of TRANSMIT_BYTE (43 R175). -/
theorem seqMove_txLog {s t : State} (h : seqMove s = .next t) :
    (t.regs.txLog = s.regs.txLog ∧ t.regs.txRdy = s.regs.txRdy) ∨
    ∃ b, s.busy = true ∧ s.stepNo = 2 ∧ decode s.cmd = .command (.transmitByte b) ∧ s.regs.txRdy = true ∧
      t.regs.txLog = s.regs.txLog ++ [b] ∧ t.regPort = .writing .uartData 0xFF (b.setWidth 32) true := by
  obtain ⟨hb, i, hd, hx⟩ | ⟨-, -, -, rfl⟩ | ⟨-, w, -, rfl⟩ | ⟨-, -, rfl⟩ := seqMove_next h
  · by_cases hi : ∃ b, i = .transmitByte b
    · obtain ⟨b, rfl⟩ := hi
      obtain ⟨-, rfl⟩ | ⟨-, rfl⟩ | ⟨h2, hr, rfl⟩ := transmitByte_next hx
      · exact .inl ⟨rfl, rfl⟩
      · exact .inl ⟨rfl, rfl⟩
      · exact .inr ⟨b, hb, stepNo_eq_of_toNat h2, hd, hr, rfl, rfl⟩
    · obtain ⟨-, -, -, -, -, -, -, -, -, -, -, -, htx, -⟩ := commandFrames i s t hx
      obtain ⟨hready, hlog, -⟩ := htx fun b e => hi ⟨b, e⟩
      exact .inl ⟨hlog, hready⟩
  all_goals exact .inl ⟨rfl, rfl⟩

/-- Settles O41. -/
theorem transmitLogGrowsByWrites : Obligations.TransmitLogGrowsByWrites := by
  intro s t h hp
  have hkept : ∀ {g' : RegSpace}, g'.txLog = s.regs.txLog → g'.txRdy = s.regs.txRdy →
      g'.txLog = s.regs.txLog ∧ (s.regs.txRdy = true → g'.txRdy = true) := fun hl hr => ⟨hl, fun e => hr.trans e⟩
  cases makeMove_serialPwm hp h with
  | seq hm hs =>
    obtain ⟨hl, hr⟩ | ⟨b, -, -, -, hr, hl, hport⟩ := seqMove_txLog hs
    · exact .inl (hkept hl hr)
    · exact .inr ⟨hr, b, hl, .inl ⟨hm, _, _, hport, (byteField_setWidth b).symm⟩⟩
  | landed cmd tmp u hm hs _ e =>
    rw [e]
    obtain ⟨hl, hr⟩ | ⟨b, hb, h2, hd, hr, hl, -⟩ := seqMove_txLog hs
    · exact .inl (hkept hl hr)
    · exact .inr ⟨hr, b, hl, .inr (.inr ⟨cmd, tmp, hm, hb, h2, hd⟩)⟩
  | write r x v lost b g hm hg e =>
    rw [e]
    obtain ⟨hl, hr⟩ | ⟨rfl, hr, hl⟩ := storeReg_txLog hg
    · exact .inl (hkept hl hr)
    · exact .inr ⟨hr, _, hl, .inr (.inl ⟨x, v, lost, hm, rfl⟩)⟩
  | read r w _ hg =>
    obtain ⟨q, e⟩ := loadReg_rxq_only hg
    rw [e]
    exact .inl (hkept rfl rfl)
  | reload _ e =>
    obtain ⟨a, c, e'⟩ := reloadStep_eq s.openStep.regs
    rw [e, e']
    exact .inl (hkept rfl rfl)
  | free _ e => rw [e]; exact .inl ⟨rfl, fun _ => rfl⟩
  | arrival b _ e => rw [e]; exact .inl (hkept rfl rfl)
  | quiet hsame =>
    obtain ⟨hr, hl, -⟩ := hsame
    exact .inl (hkept hl hr)

/-! ### The receive queue -/

/-- The one step of SEQ that touches RXQ is S2 of RECEIVE_BYTE (43 R181). -/
theorem seqMove_rxq {s t : State} (h : seqMove s = .next t) :
    t.regs.rxq = s.regs.rxq ∨
    ∃ b, s.busy = true ∧ s.stepNo = 2 ∧ decode s.cmd = .command .receiveByte ∧ s.regs.rxq = b :: t.regs.rxq ∧
      t.regPort = .reading .uartData (some (s.regs.dataHi ++ b)) ∧ t.rsp = some ⟨0, b⟩ := by
  obtain ⟨hb, i, hd, hx⟩ | ⟨-, -, -, rfl⟩ | ⟨-, w, -, rfl⟩ | ⟨-, -, rfl⟩ := seqMove_next h
  · by_cases hi : i = .receiveByte
    · subst hi
      obtain ⟨-, rfl⟩ | ⟨-, rfl⟩ | ⟨b, rest, h2, hq, rfl⟩ := receiveByte_next hx
      · exact .inl rfl
      · exact .inl rfl
      · exact .inr ⟨b, hb, stepNo_eq_of_toNat h2, hd, hq, rfl, rfl⟩
    · obtain ⟨-, -, -, -, -, -, -, -, -, -, -, -, -, hrxq⟩ := commandFrames i s t hx
      exact .inl (hrxq hi)
  all_goals exact .inl rfl

/-- A read that changes RXQ is one of UART.DATA, and takes the oldest byte (43 R189). -/
theorem loadReg_rxq {r : RegId} {g g' : RegSpace} {w : RegWord} (h : loadReg r g = .next (w, g')) :
    g'.rxq = g.rxq ∨ (r = .uartData ∧ ∃ b, g.rxq = b :: g'.rxq) := by
  by_cases hr : r = .uartData
  · subst hr
    simp only [loadReg] at h
    split at h
    · cases h; exact .inr ⟨rfl, _, ‹_›⟩
    · cases h
  · rw [loadReg_space h hr]; exact .inl rfl

/-- Settles O42. -/
theorem receiveQueueDiscipline : Obligations.ReceiveQueueDiscipline := by
  intro s t h hp
  cases makeMove_serialPwm hp h with
  | seq hm hs =>
    obtain hq | ⟨b, -, -, -, hq, hport, hrsp⟩ := seqMove_rxq hs
    · exact .inl hq
    · exact .inr (.inr ⟨b, hq, .inl ⟨hm, hport, hrsp⟩⟩)
  | landed cmd tmp u hm hs _ e =>
    rw [e]
    obtain hq | ⟨b, hb, h2, hd, hq, -⟩ := seqMove_rxq hs
    · exact .inl hq
    · exact .inr (.inr ⟨b, hq, .inr (.inr ⟨cmd, tmp, hm, hb, h2, hd⟩)⟩)
  | write r x v lost b g _ hg e =>
    obtain ⟨-, -, -, -, -, -, -, -, -, -, -, hrxq⟩ := storeReg_frame hg
    rw [e]
    exact .inl hrxq
  | read r w hm hg =>
    obtain hq | ⟨rfl, b, hq⟩ := loadReg_rxq hg
    · exact .inl hq
    · exact .inr (.inr ⟨b, hq, .inr (.inl hm)⟩)
  | reload _ e =>
    obtain ⟨a, c, e'⟩ := reloadStep_eq s.openStep.regs
    rw [e, e']
    exact .inl rfl
  | free _ e => rw [e]; exact .inl rfl
  | arrival b hm e => rw [e]; exact .inr (.inl ⟨b, hm, rfl⟩)
  | quiet hsame =>
    obtain ⟨-, -, hrxq, -⟩ := hsame
    exact .inl hrxq

/-! ### Responses -/

/-- In SEQ's move while busy: no response and BUSY kept; or the response of a last step, with data only from RECEIVE_BYTE; or a
rejection in S0 (30 R99, 60 R195, R196). -/
theorem seqMove_response {s t : State} (hb : s.busy = true) (hr : s.rsp = none) (h : seqMove s = .next t) :
    (t.busy = true ∧ t.rsp = none) ∨
    (t.busy = false ∧ ∃ d, t.rsp = some ⟨statusOk, d⟩ ∧ (d ≠ 0 → decode s.cmd = .command .receiveByte)) ∨
    ∃ c : Rejection, s.stepNo = 0 ∧ t = s.respond c.status 0 := by
  obtain ⟨-, i, hd, hx⟩ | ⟨-, h0, -, rfl⟩ | ⟨hidle, -⟩ | ⟨hidle, -⟩ := seqMove_next h
  · cases exec_effect hx with
    | silent h =>
      cases h with
      | start _ => exact .inl ⟨hb, hr⟩
      | reject h0 => exact .inr (.inr ⟨.invalidParameter, h0, rfl⟩)
    | write _ h =>
      cases h with
      | goes _ _ _ _ => exact .inl ⟨hb, hr⟩
      | ends _ _ _ => exact .inr (.inl ⟨rfl, 0, rfl, fun e => absurd rfl e⟩)
    | load _ _ => exact .inl ⟨hb, hr⟩
    | poll _ => exact .inl ⟨hb, hr⟩
    | take b rest e _ _ => exact .inr (.inl ⟨rfl, b, rfl, fun _ => e ▸ hd⟩)
  · exact .inr (.inr ⟨.illegalCommand, h0, rfl⟩)
  all_goals exact absurd (hb.symm.trans hidle) nofun

/-- Settles O51. -/
theorem responseEndsCommand : Obligations.ResponseEndsCommand := by
  intro s t hb hm h
  rw [step_of_seq hm] at h
  obtain ⟨hbusy, hrsp⟩ | ⟨hbusy, d, hrsp, hd⟩ | ⟨c, -, rfl⟩ := seqMove_response (s := s.openStep) hb rfl h
  · simp [hbusy, hrsp]
  · refine ⟨by simp [hbusy, hrsp], fun a ha => ?_⟩
    cases hrsp.symm.trans ha
    exact ⟨(by decide : statusOk ≠ 3), fun e => ⟨rfl, hd e⟩⟩
  · refine ⟨by simp, fun a ha => ?_⟩
    cases ha
    exact ⟨by cases c <;> decide, fun e => absurd rfl e⟩

/-- Settles O52: a response with a status other than 0 is that of a rejection in S0. -/
theorem rejectionLeavesNoTrace : Obligations.RejectionLeavesNoTrace := by
  intro s t a hb hm h ha hne
  rw [step_of_seq hm] at h
  obtain ⟨-, hrsp⟩ | ⟨-, d, hrsp, -⟩ | ⟨c, h0, rfl⟩ := seqMove_response (s := s.openStep) hb rfl h
  · cases hrsp.symm.trans ha
  · cases hrsp.symm.trans ha
    exact absurd rfl hne
  · cases ha
    exact ⟨h0, by rw [openStep_of_seq hm]; rfl⟩

end Sys2Proof.Machine

namespace Sys2Proof

open Machine

/-- Settles O2. -/
theorem specWordsDecode : Obligations.SpecWordsDecode := by
  unfold Obligations.SpecWordsDecode
  decide

/-! ### The map of addresses (00 R13) -/

theorem Board.mem_addr_of_address {b : Board} {r : RegId} {a : Nat} (h : b.address r = some a) : (r, a) ∈ b.addr := by
  obtain ⟨x, hx, rfl⟩ := Option.map_eq_some_iff.mp h
  have hr : x.1 = r := eq_of_beq (List.find?_some (p := fun x : RegId × Nat => x.1 == r) hx)
  exact hr ▸ List.mem_of_find?_eq_some hx

theorem Board.exists_address_iff {b : Board} {r : RegId} : (∃ a, b.address r = some a) ↔ r ∈ b.addr.map (fun x => x.1) := by
  rw [← Option.isSome_iff_exists, Board.address, Option.isSome_map, List.find?_isSome, List.mem_map]
  simp only [beq_iff_eq]

/-- Settles O57. -/
theorem boardNeverChanges : Obligations.BoardNeverChanges := by
  refine ⟨fun s t h => (makeMove_keeps h).1, fun b hb => ?_⟩
  obtain ⟨-, -, -, -, hids, hnodup⟩ := hb
  refine ⟨fun r => by rw [Board.exists_address_iff, hids], fun r r' a hr hr' => ?_⟩
  have he := List.inj_on_of_nodup_map hnodup (Board.mem_addr_of_address hr) (Board.mem_addr_of_address hr') rfl
  exact congrArg Prod.fst he

namespace Machine

/-! ### Resets -/

/-- A reset where no transaction lands (70 R221). -/
theorem resetMove_of_dropped {landed : Bool} {cmd : CmdWord} {tmp : PwmWord} {s : State} (h : (landed && s.busy) = false) :
    resetMove landed cmd tmp s = .next (s.resetSeq cmd tmp) := by
  rw [resetMove, h]; rfl

theorem resetMove_of_landed {cmd : CmdWord} {tmp : PwmWord} {s : State} (h : s.busy = true) :
    resetMove true cmd tmp s =
      bindNext (seqMove s) fun t => .next ({ s with regs := t.regs, draws := t.draws }.resetSeq cmd tmp) := by
  rw [resetMove, h]; rfl

/-- A step with a reset of WCS-RM to make. -/
theorem step_of_reset {landed : Bool} {cmd : CmdWord} {tmp : PwmWord} {s : State} (h : nextMove s = .reset landed cmd tmp) :
    step s = resetMove landed cmd tmp s.openStep := by rw [step, h]; rfl

theorem resetSeq_openStep (cmd : CmdWord) (tmp : PwmWord) (s : State) : s.openStep.resetSeq cmd tmp =
    { s with
      busy := false, stepNo := 0, cmd := cmd, tmp := tmp, rsp := none, regPort := .idle, moves := s.moves.tail } := rfl

/-- Settles O58: with no command in progress nothing lands, and S0 of an illegal word has no transaction to land. -/
theorem sequencerResetKeepsRegisters : Obligations.SequencerResetKeepsRegisters := by
  intro s landed cmd tmp h hcase
  rw [step_of_reset h, ← resetSeq_openStep]
  cases hl : landed && s.busy with
  | false => exact resetMove_of_dropped hl
  | true =>
    obtain ⟨rfl, hb⟩ := Bool.and_eq_true_iff.mp hl
    obtain hd | hd | ⟨h0, e, hd⟩ := hcase
    · cases hd
    · exact absurd (hb.symm.trans hd) nofun
    · exact (resetMove_of_landed (s := s.openStep) hb).trans (by rw [seqMove_of_illegal (s := s.openStep) hb hd h0]; rfl)

/-- Settles O59: the transaction lands as SEQ's own move would have made it. -/
theorem resetMayLandTransaction : Obligations.ResetMayLandTransaction := by
  have hland : ∀ {s : State} {i : Instr} {cmd : CmdWord} {tmp : PwmWord}, nextMove s = .reset true cmd tmp →
      s.busy = true → decode s.cmd = .command i → step s = bindNext (exec i s.openStep) fun t =>
        .next ({ s.openStep with regs := t.regs, draws := t.draws }.resetSeq cmd tmp) := by
    intro s i cmd tmp h hb hd
    rw [step_of_reset h, ← seqMove_of_command (s := s.openStep) hb hd]
    exact resetMove_of_landed hb
  refine ⟨fun s t i cmd tmp h hb hd hx => ?_, fun s f i cmd tmp h hb hd hx => ?_⟩
  · rw [hland h hb hd, hx]; rfl
  · rw [hland h hb hd, hx]; rfl

/-- Settles O60. -/
theorem platformResetStopsActuator : Obligations.PlatformResetStopsActuator := by
  intro s contents cmd tmp h
  have hstep : step s = .next ((s.openStep.withRegs (powerOn s.board contents)).resetSeq cmd tmp) := by rw [step, h]; rfl
  have hlines : driveLines (powerOn s.board contents) = 0b00 := driveLines_merge_stop contents
  refine ⟨_, hstep, rfl, rfl, rfl, rfl, hlines, actuator_of_lines_clear hlines, rfl, lineCanonical_wf _ _,
    lineCanonical_wf _ _, fun l hl => ⟨lineRead_lineCanonical hl _, lineRead_lineCanonical hl _⟩, fun j hj => ?_, rfl⟩
  have hm : (0x3 : RegWord).getLsbD j = false :=
    Nat.testBit_lt_two_pow (Nat.lt_of_lt_of_le (by decide : 3 < 2 ^ 2) (Nat.pow_le_pow_right (by decide) hj))
  exact (merge_getLsbD _ _ _ _).trans (if_neg (by rw [hm]; exact Bool.false_ne_true))

end Machine

/-! ### Undisturbed serial commands -/

open Machine

/-- A step that changes nothing more when made again goes on for ever. -/
theorem runs_of_fixed {s t : State} (hs : step s = .next t) (ht : step t = .next t) (n : Nat) : runs (n + 1) s t := by
  induction n generalizing s with
  | zero => exact runs_succ.mpr ⟨t, hs, runs_zero.mpr rfl⟩
  | succ n ih => exact runs_succ.mpr ⟨t, hs, ih ht⟩

theorem responses_of_fixed {s t : State} (hs : step s = .next t) (ht : step t = .next t) (hr : t.rsp = none) (n : Nat) :
    responses (n + 1) s = [] := by
  induction n generalizing s with
  | zero => rw [responses_succ hs, hr]; rfl
  | succ n ih => rw [responses_succ hs, hr, ih ht]; rfl

/-- The state after a poll of a flag that is 0: nothing has changed but what the port shows (43 R176, R182). -/
def polled (s : State) : State := { s with regPort := .reading .uartFlags (some (flagsWord s.regs)) }

theorem goto_polled {s : State} (h : s.stepNo = 1) :
    (s.didRead .uartFlags (flagsWord s.regs) s.regs).goto 1 = polled s :=
  congrArg (fun k => { polled s with stepNo := k }) h.symm

theorem exec_transmitByte_polled {s : State} {byte : Byte} (h : s.stepNo = 1) (hr : s.regs.txRdy = false) :
    exec (.transmitByte byte) s = .next (polled s) := by
  rw [exec_transmitByte_poll h, hr, ← goto_polled h]; rfl

theorem exec_transmitByte_ready {s : State} {byte : Byte} (h : s.stepNo = 1) (hr : s.regs.txRdy = true) :
    exec (.transmitByte byte) s = .next ((s.didRead .uartFlags (flagsWord s.regs) s.regs).goto 2) := by
  rw [exec_transmitByte_poll h, hr]; rfl

theorem exec_receiveByte_polled {s : State} (h : s.stepNo = 1) (hq : s.regs.rxq = []) :
    exec .receiveByte s = .next (polled s) := by
  rw [exec_receiveByte_poll h, ite_rxAvl, if_pos hq, goto_polled h]

/-- An undisturbed poll of a flag that is 0. -/
theorem step_of_poll {s : State} {byte : Byte} (hb : s.busy = true) (h1 : s.stepNo = 1) (hm : s.moves = [])
    (hc : s.cmd = encode (.transmitByte byte) ∧ s.regs.txRdy = false ∨ s.cmd = encode .receiveByte ∧ s.regs.rxq = []) :
    step s = .next (polled { s with rsp := none }) := by
  obtain ⟨hc, hr⟩ | ⟨hc, hq⟩ := hc
  · have hp : InProgress (.transmitByte byte) s := ⟨hb, hc, hm⟩
    exact hp.step_eq.trans (exec_transmitByte_polled h1 hr)
  · have hp : InProgress .receiveByte s := ⟨hb, hc, hm⟩
    exact hp.step_eq.trans (exec_receiveByte_polled h1 hq)

/-- Settles O39: the state after the first poll is a fixed point of the step. -/
theorem serialCommandsPollForever : Obligations.SerialCommandsPollForever := by
  intro s byte hb h1 hm hc n
  have hs := step_of_poll hb h1 hm hc
  have ht := step_of_poll (s := polled { s with rsp := none }) hb h1 hm hc
  exact ⟨runs_of_fixed hs ht n, responses_of_fixed hs ht rfl n⟩

/-! ### TRANSMIT_BYTE waits, then sends -/

/-- A step that completes no transaction, then the rest. -/
theorem Shows.quiet {n : Nat} {s u t : State} {ts : List RegPort} (h : step s = .next u) (hport : completed u.regPort = [])
    (hrest : Shows n u ts t) : Shows (n + 1) s ts t := by
  obtain ⟨hts, hrun⟩ := hrest
  exact ⟨by rw [transactions_succ h, hport, hts]; rfl, runs_succ.mpr ⟨u, h, hrun⟩⟩

/-- A request that waits for its acknowledge has completed nothing. -/
theorem completed_waiting (p : RegPort) : completed (waiting p) = [] := by
  rcases p with _ | ⟨_, _ | _⟩ | ⟨_, _, _, _ | _⟩ <;> rfl

/-- The state in which TRANSMIT_BYTE leaves the machine. -/
def byteSent (byte : Byte) (s : State) : State :=
  { s with
    busy := false, stepNo := 2, rsp := some ⟨0, 0⟩, regPort := .writing .uartData 0xFF (byte.setWidth 32) true
    draws := s.draws + 1, regs := sendByte (Config.txStaysReady s.draws) byte s.regs }

/-- With TXRDY = 1 one poll and the write are left (43 R175). -/
theorem shows_send {byte : Byte} {s : State} (hs : InProgress (.transmitByte byte) s) (h1 : s.stepNo = 1)
    (hr : s.regs.txRdy = true) :
    Shows 2 s [.reading .uartFlags (some (flagsWord s.regs)), .writing .uartData 0xFF (byte.setWidth 32) true]
      (byteSent byte s) := by
  have hp := hs.step_eq.trans (exec_transmitByte_ready h1 hr)
  have hs2 := hs.after hp hs.busy
  have hw := hs2.step_eq.trans (exec_transmitByte_send rfl hr)
  exact .reading hp rfl (.writing hw rfl (.nil _))

/-- The polls while TXRDY = 0, the transmitter freed, then the poll and the write. -/
theorem shows_wait_send {byte : Byte} (n : Nat) {s : State} (hb : s.busy = true) (h1 : s.stepNo = 1)
    (hc : s.cmd = encode (.transmitByte byte)) (hr : s.regs.txRdy = false)
    (hm : s.moves = List.replicate n .seq ++ [.txFree]) :
    ∃ t, Shows (n + 3) s
      (List.replicate n (.reading .uartFlags (some (flagsWord s.regs))) ++
        [.reading .uartFlags (some (flagsWord (transmitterFree s.regs))),
          .writing .uartData 0xFF (byte.setWidth 32) true]) t ∧
      t.busy = false ∧ t.rsp = some ⟨0, 0⟩ ∧ t.regs.txLog = s.regs.txLog ++ [byte] := by
  induction n generalizing s with
  | zero =>
    have hmove : nextMove s = .txFree := by rw [nextMove, hm]; rfl
    have hstep : step s = .next (s.openStep.withRegs (transmitterFree s.regs)) := by rw [step, hmove]; rfl
    have hs : InProgress (.transmitByte byte) (s.openStep.withRegs (transmitterFree s.regs)) :=
      ⟨hb, hc, congrArg List.tail hm⟩
    have hport : completed s.openStep.regPort = [] := by
      rw [State.openStep_regPort, hmove]; exact completed_waiting _
    exact ⟨_, .quiet hstep hport (shows_send hs h1 rfl), rfl, rfl, rfl⟩
  | succ n ih =>
    have hmove : nextMove s = .seq := by rw [nextMove, hm]; rfl
    have hd : decode s.cmd = .command (.transmitByte byte) := by rw [hc]; exact decode_encode _
    have hstep := (stepRunsDecodedCommand s _ hmove hb hd).trans (exec_transmitByte_polled h1 hr)
    obtain ⟨t, hshows, ht⟩ := ih (s := polled { s with rsp := none, regPort := .idle, moves := s.moves.tail }) hb h1 hc hr
      (congrArg List.tail hm)
    exact ⟨t, .reading hstep rfl hshows, ht⟩

/-- Settles O40. -/
theorem transmitWaitsThenSends : Obligations.TransmitWaitsThenSends := by
  intro n byte s hb h1 hc hr hm
  obtain ⟨t, ⟨hts, hrun⟩, ht⟩ := shows_wait_send n hb h1 hc hr hm
  exact ⟨_, _, t, (txRdyOf_flagsWord s.regs).trans hr, txRdyOf_flagsWord (transmitterFree s.regs), hts, hrun, ht⟩

end Sys2Proof

namespace Sys2Proof.Machine

/-! ### When an access is answered -/

/-- Why a masked write that does not fault is refused, given TXRDY (10 R39, R51, 43 R187). -/
def storeRefusal (ready : Bool) : RegId → Option Refusal
  | .gpio p .pend => some (.unspecifiedAccess (.gpio p .pend))
  | .uartFlags => some (.unspecifiedAccess .uartFlags)
  | .uartData => if ready then none else some .dataWriteNotReady
  | _ => none

theorem storeReg_of_refusal {stays : Bool} {r : RegId} {m v : RegWord} {g : RegSpace} {e : Refusal}
    (h : storeRefusal g.txRdy r = some e) : storeReg stays r m v g = .refused e := by
  cases r with
  | gpio p k => cases k <;> cases h; rfl
  | uartFlags => cases h; rfl
  | uartData =>
    rw [storeRefusal] at h
    rw [storeReg]
    split at h
    · cases h
    · cases h; exact if_neg ‹_›
  | _ => cases h

theorem storeReg_of_no_refusal {r : RegId} {g : RegSpace} (h : storeRefusal g.txRdy r = none) (stays : Bool)
    (m v : RegWord) : ∃ g', storeReg stays r m v g = .next g' := by
  cases r with
  | gpio p k =>
    cases k with
    | pend => cases h
    | _ => exact ⟨_, rfl⟩
  | uartFlags => cases h
  | uartData =>
    rw [storeRefusal] at h
    split at h
    · exact ⟨_, if_pos ‹_›⟩
    · cases h
  | _ => exact ⟨_, rfl⟩

section
variable {r : RegId} {m v : RegWord} {s : State}

/-! How a masked write ends: the fault of the access, the refusal of the store, or the state it has written. -/

theorem memWriteMasked_of_fault {f : Fault} (h : accessFault s.board s.regs r = some f) :
    memWriteMasked r m v s = .fault f := by
  rw [memWriteMasked, h]

theorem memWriteMasked_of_refusal {e : Refusal} (ha : accessFault s.board s.regs r = none)
    (h : storeRefusal s.regs.txRdy r = some e) : memWriteMasked r m v s = .refused e := by
  rw [memWriteMasked, ha, storeReg_of_refusal h]; rfl

theorem memWriteMasked_of_answered (ha : accessFault s.board s.regs r = none) (h : storeRefusal s.regs.txRdy r = none) :
    ∃ g, memWriteMasked r m v s = .next (s.wrote r m v g) := by
  obtain ⟨g, hg⟩ := storeReg_of_no_refusal h (Config.txStaysReady s.draws) m v
  exact ⟨g, memWriteMasked_of_store ha hg⟩

end

/-! ### Two states in the same step -/

/-- A relation of outcomes that holds of every building block of a step, made from two states. -/
structure RelatesBlocks (Q : Outcome State → Outcome State → Prop) (s s' : State) : Prop where
  stepNo : s'.stepNo = s.stepNo
  tmp    : s'.tmp = s.tmp
  board  : s'.board = s.board
  stuck  : Q (.fault .noSuchStep) (.fault .noSuchStep)
  start  : Q (.next (s.goto 1)) (.next (s'.goto 1))
  reject : Q (raise .invalidParameter s) (raise .invalidParameter s')
  goes   : ∀ k r m v, Q (thenGoto k (memWriteMasked r m v s)) (thenGoto k (memWriteMasked r m v s'))
  ends   : ∀ r m v, Q (thenDone (memWriteMasked r m v s)) (thenDone (memWriteMasked r m v s'))
  load   : Q (.next (((s.didRead .pwmLoad s.regs.pwmLoad s.regs).withTmp (pwmField s.regs.pwmLoad)).goto 2))
    (.next (((s'.didRead .pwmLoad s'.regs.pwmLoad s'.regs).withTmp (pwmField s'.regs.pwmLoad)).goto 2))
  pollTx : Q (pollFlag txRdyOf s) (pollFlag txRdyOf s')
  pollRx : Q (pollFlag rxAvlOf s) (pollFlag rxAvlOf s')
  take   : Q (bindNext (memRead .uartData s) fun x => .next (x.2.respond statusOk (byteField x.1)))
    (bindNext (memRead .uartData s') fun x => .next (x.2.respond statusOk (byteField x.1)))

theorem RelatesBlocks.driveStep {Q : Outcome State → Outcome State → Prop} {s s' : State} (h : RelatesBlocks Q s s')
    (off on : Nat) : Q (driveStep off on s) (driveStep off on s') := by
  simp only [Machine.driveStep, h.stepNo]
  split
  · exact h.start
  · exact h.goes _ _ _ _
  · exact h.ends _ _ _
  · exact h.stuck

/-- What holds of the building blocks holds of every step of every command: which block a step is depends on STEP, TMP, the
operands and the parameters alone. -/
theorem RelatesBlocks.exec {Q : Outcome State → Outcome State → Prop} {s s' : State} (h : RelatesBlocks Q s s') (i : Instr) :
    Q (exec i s) (exec i s') := by
  have hcheck : ∀ ok, Q (checkThenStart ok s) (checkThenStart ok s') := fun ok => by
    cases ok with
    | false => exact h.reject
    | true => exact h.start
  cases i with
  | configurePin port pin dir res =>
    simp only [Machine.exec, execConfigurePin, h.stepNo]
    split
    · exact hcheck _
    · cases configureOperands port pin res with
      | none => exact h.stuck
      | some x =>
        simp only [configureStep, h.stepNo, h.board]
        split
        · exact h.goes _ _ _ _
        · cases oppositeReg x.2.2 with
          | none => exact h.stuck
          | some k => exact h.goes _ _ _ _
        · cases requestedReg x.2.2 with
          | none => exact h.stuck
          | some k => exact h.goes _ _ _ _
        · exact h.goes _ _ _ _
        · exact h.ends _ _ _
        · exact h.stuck
  | attachInterrupt port pin prio edge =>
    simp only [Machine.exec, execAttachInterrupt, h.stepNo]
    split
    · exact hcheck _
    · cases attachOperands port pin prio with
      | none => exact h.stuck
      | some x =>
        simp only [attachStep, h.stepNo, h.board]
        split
        · exact h.goes _ _ _ _
        · exact h.goes _ _ _ _
        · exact h.goes _ _ _ _
        · exact h.goes _ _ _ _
        · exact h.goes _ _ _ _
        · exact h.ends _ _ _
        · exact h.stuck
  | actForward => exact h.driveStep _ _
  | actReverse => exact h.driveStep _ _
  | actStop =>
    simp only [Machine.exec, execActStop, h.stepNo]
    split
    · exact h.start
    · exact h.ends _ _ _
    · exact h.stuck
  | initPwm load cmp =>
    simp only [Machine.exec, execInitPwm, h.stepNo]
    split
    · exact h.start
    · exact h.goes _ _ _ _
    · exact h.goes _ _ _ _
    · exact h.goes _ _ _ _
    · exact h.ends _ _ _
    · exact h.stuck
  | setDuty cmp =>
    simp only [Machine.exec, execSetDuty, h.stepNo, h.tmp]
    split
    · exact h.start
    · exact h.load
    · exact h.ends _ _ _
    · exact h.stuck
  | transmitByte byte =>
    simp only [Machine.exec, execTransmitByte, h.stepNo]
    split
    · exact h.start
    · exact h.pollTx
    · exact h.ends _ _ _
    · exact h.stuck
  | receiveByte =>
    simp only [Machine.exec, execReceiveByte, h.stepNo]
    split
    · exact h.start
    · exact h.pollRx
    · exact h.take
    · exact h.stuck

/-! ### Bits outside the fields never matter -/

/-- The second outcome takes the same step as the first, as far as SEQ can tell, or stops for the same reason. -/
def SameVerdict : Outcome State → Outcome State → Prop
  | .next t, o => ∃ t', o = .next t' ∧ t'.stepNo = t.stepNo ∧ t'.tmp = t.tmp ∧ t'.busy = t.busy ∧ t'.rsp = t.rsp
  | .fault f, o => o = .fault f
  | .refused x, o => o = .refused x

/-- The fields of the register space on which SEQ's next step depends. -/
structure SameToSeq (bd : Board) (g g' : RegSpace) : Prop where
  clock : ∀ p, clockOn bd g' p = clockOn bd g p
  ready : g'.txRdy = g.txRdy
  rxq   : g'.rxq = g.rxq
  load  : pwmField g'.pwmLoad = pwmField g.pwmLoad

theorem sameToSeq_changeOutside (bd : Board) (r : RegId) (v : RegWord) (g : RegSpace) :
    SameToSeq bd g (changeOutside bd r v g) := by
  have hrefl : SameToSeq bd g g := ⟨fun _ => rfl, rfl, rfl, rfl⟩
  cases r with
  | sysClkgate => exact { hrefl with clock := clockOn_outside bd v g }
  | icEn l =>
    simp only [changeOutside]
    split
    · exact { hrefl with }
    · exact hrefl
  | icPri l =>
    simp only [changeOutside]
    split
    · exact { hrefl with }
    · exact hrefl
  | pwmLoad => exact { hrefl with load := merge_slice_kept _ _ _ 0 16 (by simp only [fieldMask]; decide) }
  | _ => exact { hrefl with }

theorem SameToSeq.accessFault {bd : Board} {g g' : RegSpace} (h : SameToSeq bd g g') (r : RegId) :
    accessFault bd g' r = accessFault bd g r := by
  cases r with
  | gpio p k => rw [accessFault_gpio, accessFault_gpio, h.clock]
  | _ => rfl

theorem sameVerdict_next {t t' : State} (hk : t'.stepNo = t.stepNo) (ht : t'.tmp = t.tmp) (hb : t'.busy = t.busy)
    (hr : t'.rsp = t.rsp) : SameVerdict (.next t) (.next t') := ⟨t', rfl, hk, ht, hb, hr⟩

section
variable {s : State} {g : RegSpace} (h : SameToSeq s.board s.regs g)
include h

/-- A masked write, and any step that goes on from it in the same way on both sides, has the same verdict. -/
theorem sameVerdict_write (r : RegId) (m v : RegWord) {k : State → State}
    (hk : ∀ g₁ g₂, SameVerdict (.next (k (s.wrote r m v g₁))) (.next (k ((s.withRegs g).wrote r m v g₂)))) :
    SameVerdict (bindNext (memWriteMasked r m v s) fun t => .next (k t))
      (bindNext (memWriteMasked r m v (s.withRegs g)) fun t => .next (k t)) := by
  have ha' : accessFault (s.withRegs g).board (s.withRegs g).regs r = accessFault s.board s.regs r := h.accessFault r
  have hx' : storeRefusal (s.withRegs g).regs.txRdy r = storeRefusal s.regs.txRdy r := by
    rw [State.withRegs_regs, h.ready]
  cases ha : accessFault s.board s.regs r with
  | some f => rw [memWriteMasked_of_fault ha, memWriteMasked_of_fault (ha'.trans ha)]; rfl
  | none =>
    cases hx : storeRefusal s.regs.txRdy r with
    | some e => rw [memWriteMasked_of_refusal ha hx, memWriteMasked_of_refusal (ha'.trans ha) (hx'.trans hx)]; rfl
    | none =>
      obtain ⟨g₁, e₁⟩ := memWriteMasked_of_answered (m := m) (v := v) ha hx
      obtain ⟨g₂, e₂⟩ := memWriteMasked_of_answered (m := m) (v := v) (ha'.trans ha) (hx'.trans hx)
      rw [e₁, e₂]
      exact hk g₁ g₂

theorem sameToSeq_blocks : RelatesBlocks SameVerdict s (s.withRegs g) where
  stepNo := rfl
  tmp := rfl
  board := rfl
  stuck := rfl
  start := sameVerdict_next rfl rfl rfl rfl
  reject := sameVerdict_next rfl rfl rfl rfl
  goes k r m v := sameVerdict_write h r m v fun _ _ => sameVerdict_next rfl rfl rfl rfl
  ends r m v := sameVerdict_write h r m v fun _ _ => sameVerdict_next rfl rfl rfl rfl
  load := sameVerdict_next rfl h.load rfl rfl
  pollTx := sameVerdict_next (by simp [h.ready]) rfl rfl rfl
  pollRx := sameVerdict_next (by simp [rxAvl, h.rxq]) rfl rfl rfl
  take := by
    cases hq : s.regs.rxq with
    | nil => rw [memRead_uartData_empty hq, memRead_uartData_empty (h.rxq.trans hq)]; rfl
    | cons b rest =>
      rw [memRead_uartData hq, memRead_uartData (h.rxq.trans hq)]
      exact sameVerdict_next rfl rfl rfl (by simp)

end

/-- Settles O56. -/
theorem outsideBitsNeverMatter : Obligations.OutsideBitsNeverMatter := by
  intro i s r v s'
  have hv := (sameToSeq_blocks (sameToSeq_changeOutside s.board r v s.regs)).exec i
  revert hv
  cases exec i s <;> exact id

/-! ### The request of a step and its transaction -/

/-- Where the first outcome is a next state, so is the second, with the same request at the port. -/
def SameRequest (o o' : Outcome State) : Prop :=
  ∀ t, o = .next t → ∃ t', o' = .next t' ∧ unacknowledged t.regPort = unacknowledged t'.regPort

theorem sameRequest_next {t t' : State} (h : unacknowledged t.regPort = unacknowledged t'.regPort) :
    SameRequest (.next t) (.next t') := fun _ e => by cases e; exact ⟨t', rfl, h⟩

theorem sameRequest_fault (f : Fault) (o : Outcome State) : SameRequest (.fault f) o :=
  fun _ e => by cases e

theorem sameRequest_refused (e : Refusal) (o : Outcome State) : SameRequest (.refused e) o :=
  fun _ e => by cases e

/-- An access that PLAT answers at all is answered where every clock is on (20 R61, 60 R218). -/
theorem accessFault_answeringSpace {bd : Board} {g : RegSpace} {r : RegId} (h : accessFault bd g r = none) :
    accessFault bd answeringSpace r = none := by
  cases r with
  | gpio p k =>
    have hc : clockOn bd answeringSpace p = true := by
      have hall : ∀ j, j < 32 → (0xFFFFFFFF : RegWord).getLsbD j = true := by decide
      exact hall _ (bd.clkBit_lt p)
    rw [accessFault_gpio, if_pos hc]
  | _ => exact h

theorem storeRefusal_ready {ready : Bool} {r : RegId} (h : storeRefusal ready r = none) : storeRefusal true r = none := by
  cases r with
  | uartData => rfl
  | gpio p k => cases k <;> exact h
  | _ => exact h

section
variable {s : State} (hs : s.regPort = .idle)

/-- A masked write that is answered is answered in `answeredState`, with the same request. -/
theorem sameRequest_write (r : RegId) (m v : RegWord) {k : State → State} (hk : ∀ t, (k t).regPort = t.regPort) :
    SameRequest (bindNext (memWriteMasked r m v s) fun t => .next (k t))
      (bindNext (memWriteMasked r m v (answeredState s)) fun t => .next (k t)) := by
  cases ha : accessFault s.board s.regs r with
  | some f => rw [memWriteMasked_of_fault ha]; exact sameRequest_fault f _
  | none =>
    cases hx : storeRefusal s.regs.txRdy r with
    | some e => rw [memWriteMasked_of_refusal ha hx]; exact sameRequest_refused e _
    | none =>
      obtain ⟨g₁, e₁⟩ := memWriteMasked_of_answered (m := m) (v := v) ha hx
      obtain ⟨g₂, e₂⟩ := memWriteMasked_of_answered (s := answeredState s) (m := m) (v := v)
        (accessFault_answeringSpace ha) (storeRefusal_ready hx)
      rw [e₁, e₂]
      exact sameRequest_next (by rw [hk, hk]; rfl)

include hs

theorem answeredState_blocks : RelatesBlocks SameRequest s (answeredState s) where
  stepNo := rfl
  tmp := rfl
  board := rfl
  stuck := sameRequest_fault _ _
  start := sameRequest_next (by rw [State.goto_regPort, hs]; rfl)
  reject := sameRequest_next (by rw [State.respond_regPort, hs]; rfl)
  goes k r m v := sameRequest_write r m v fun _ => rfl
  ends r m v := sameRequest_write r m v fun _ => rfl
  load := sameRequest_next rfl
  pollTx := sameRequest_next rfl
  pollRx := sameRequest_next rfl
  take := by
    cases hq : s.regs.rxq with
    | nil => rw [memRead_uartData_empty hq]; exact sameRequest_refused _ _
    | cons b rest => rw [memRead_uartData hq]; exact sameRequest_next rfl

/-- The transaction SEQ's move completes is the one its step requests (20 R62). -/
theorem seqMove_unacknowledged {t : State} (h : seqMove s = .next t) : unacknowledged t.regPort = request s := by
  obtain ⟨hb, i, hd, hx⟩ | ⟨hb, h0, ⟨e, hd⟩, rfl⟩ | ⟨hb, w, -, rfl⟩ | ⟨hb, -, rfl⟩ := seqMove_next h
  · obtain ⟨u, hu, hport⟩ := (answeredState_blocks hs).exec i t hx
    rw [request_of_next (s := s) ((seqMove_of_command (s := answeredState s) hb hd).trans hu), hport]
  · rw [request_of_next (s := s) (seqMove_of_illegal (s := answeredState s) hb hd h0), State.respond_regPort, hs]; rfl
  · rw [request_of_idle hb, State.accept_regPort, hs]; rfl
  · rw [request_of_idle hb, hs]; rfl

end

/-! ### Withheld acknowledges -/

/-- What `n` withheld acknowledges leave: everything but the outputs and the script (20 R79). -/
theorem runs_hold {n : Nat} {s t : State} {rest : List Move} (hm : s.moves = List.replicate n .hold ++ rest)
    (h : runs n s t) :
    t.busy = s.busy ∧ t.cmd = s.cmd ∧ t.stepNo = s.stepNo ∧ t.tmp = s.tmp ∧ t.regs = s.regs ∧ t.cmdPort = s.cmdPort ∧
    t.moves = rest ∧ responses n s = [] ∧ transactions n s = [] ∧ (0 < n → t.regPort = request s) := by
  induction n generalizing s with
  | zero =>
    obtain rfl := runs_zero.mp h
    exact ⟨rfl, rfl, rfl, rfl, rfl, rfl, hm, rfl, rfl, nofun⟩
  | succ n ih =>
    obtain ⟨u, hu, hr⟩ := runs_succ.mp h
    have hmove : nextMove s = .hold := by rw [nextMove, hm]; rfl
    have hstep : step s = .next { s.openStep with regPort := request s } := by rw [step, hmove]; rfl
    have huEq := hstep.symm.trans hu
    cases huEq
    have hcompleted : completed (request s) = [] := by rw [← waiting_request]; exact completed_waiting _
    obtain ⟨hbusy, hcmd, hk, htmp, hregs, hport, hmoves, hresp, htrans, hreq⟩ := ih (congrArg List.tail hm) hr
    refine ⟨hbusy, hcmd, hk, htmp, hregs, hport, hmoves, ?_, ?_, fun _ => ?_⟩
    · rw [responses_succ hstep, hresp]; rfl
    · rw [transactions_succ hstep, hcompleted, htrans]; rfl
    · obtain rfl | hn := Nat.eq_zero_or_pos n
      · rw [← runs_zero.mp hr]
      · exact hreq hn

/-- Settles O53. -/
theorem heldTransactionKeepsStep : Obligations.HeldTransactionKeepsStep := by
  refine ⟨fun n s t rest hm h => runs_hold hm h, fun s t h hs hhold hr hp => ?_, fun s t hm h => ?_⟩
  · obtain ⟨hsame, hport⟩ := makeMove_sameSequencer (movesSequencer_eq_false hs hr hp) h
    refine ⟨?_, hsame.request⟩
    rw [hport hhold, openStep_of_other hs]
  · rw [step_of_seq hm] at h
    exact seqMove_unacknowledged (openStep_regPort_of_seq hm) h

end Sys2Proof.Machine
